-- ==== Sys2Proof/Word.lean ====
section
/-! DEFINITION. The word types of the DNP3 Codec Block (00_scope.md rule R10). -/

namespace Sys2Proof

/-- One byte of `BUF`, and every 8-bit register (R10). -/
abbrev Byte := BitVec 8

/-- A link address (R10). -/
abbrev Half := BitVec 16

/-- The command word `CW`, the operand `OPA`, and every 32-bit register (R10). -/
abbrev Word := BitVec 32

/-- The operand `OPB`, the result `RES`, and every 64-bit register (R10). -/
abbrev DWord := BitVec 64

/-- A transport sequence number (R10, R104). -/
abbrev Seq := BitVec 6

end Sys2Proof
end

