-- ==== Sys2Proof/Syntax.lean ====
section
/-! DEFINITION. The command frame and the abstract syntax of the 67 instructions of spec/opcode_table.json. -/

namespace Sys2Proof

/-- One command frame (30_encoding.md rule R90). -/
structure Frame where
  /-- `CW`, the command word: opcode and small arguments. -/
  cw : Word
  /-- `OPA`, operand A. -/
  opa : Word
  /-- `OPB`, operand B. -/
  opb : DWord
deriving DecidableEq, Repr

/-- The object type of a header (10_state.md rule R31; 30_encoding.md rule R97). -/
inductive ObjType where
  /-- `OTYPE = 0`: fixed-size records. -/
  | fixed
  /-- `OTYPE = 1`: one bit per object. -/
  | bitfield
deriving DecidableEq, Repr

/-- The instructions, one constructor per row of spec/opcode_table.json. The operands are those of rules R93 to
R97; an operand that a format ignores does not appear. -/
inductive Instr where
  -- Byte codec, reads: `addr` is `OPA` (R93)
  | rdU8 (addr : Word)
  | rdI8 (addr : Word)
  | rdU16LE (addr : Word)
  | rdU16BE (addr : Word)
  | rdI16LE (addr : Word)
  | rdI16BE (addr : Word)
  | rdU32LE (addr : Word)
  | rdU32BE (addr : Word)
  | rdI32LE (addr : Word)
  | rdI32BE (addr : Word)
  | rdU48LE (addr : Word)
  | rdU48BE (addr : Word)
  | rdU64LE (addr : Word)
  | rdU64BE (addr : Word)
  | rdI64LE (addr : Word)
  | rdI64BE (addr : Word)
  | rdF32LE (addr : Word)
  | rdF32BE (addr : Word)
  | rdF64LE (addr : Word)
  | rdF64BE (addr : Word)
  -- Byte codec, writes: `addr` is `OPA`, `value` is `OPB` (R93)
  | wrU8 (addr : Word) (value : DWord)
  | wrI8 (addr : Word) (value : DWord)
  | wrU16LE (addr : Word) (value : DWord)
  | wrU16BE (addr : Word) (value : DWord)
  | wrI16LE (addr : Word) (value : DWord)
  | wrI16BE (addr : Word) (value : DWord)
  | wrU32LE (addr : Word) (value : DWord)
  | wrU32BE (addr : Word) (value : DWord)
  | wrI32LE (addr : Word) (value : DWord)
  | wrI32BE (addr : Word) (value : DWord)
  | wrU48LE (addr : Word) (value : DWord)
  | wrU48BE (addr : Word) (value : DWord)
  | wrU64LE (addr : Word) (value : DWord)
  | wrU64BE (addr : Word) (value : DWord)
  | wrI64LE (addr : Word) (value : DWord)
  | wrI64BE (addr : Word) (value : DWord)
  | wrF32LE (addr : Word) (value : DWord)
  | wrF32BE (addr : Word) (value : DWord)
  | wrF64LE (addr : Word) (value : DWord)
  | wrF64BE (addr : Word) (value : DWord)
  -- Link header unit (R95)
  | lhSet (len ctrl : Byte) (dest src : Half)
  | lhGet
  | lhRead (addr : Word)
  | lhWrite (addr : Word)
  | lhCtrl (dir fcb fcv : Bool) (func : Byte)
  | lhChfcb (fcb : Bool)
  | lhFunc
  | crcCalc (addr : Word) (len : DWord)
  -- Transport unit (R96)
  | tlUp
  | tlDown
  | tlSend (addr : Word) (len : DWord)
  | tlRecv (addr : Word) (len : DWord)
  | tlSucc
  | tlFail
  -- Object unit (R97)
  | ohParse (otype : ObjType) (osize : Half) (addr : Word)
  | oiInit (hasdata : Bool) (dataaddr : Word)
  | oiHasdata
  | oiDeref
  | oiInfo
  | oiInc
  | oiPinc
  | oiCount
  | oiIsend
  | oiSwap
  -- System unit (R97)
  | sysStat
  | sysReset
  | sysFinfo
deriving DecidableEq, Repr

end Sys2Proof
end

