-- ==== Sys2Proof/WellFormed.lean ====
section
/-! DEFINITION. The opcode table as data, and which command words are well-formed (30_encoding.md rules R92 and R98).
The operand fields of `Instr` are bit vectors of the widths rules R93 to R97 give, so every term of `Instr` has a
well-formed word; what can be ill-formed is a command word: an opcode outside the map, or a 1 in an `ARG` bit that
the format does not name. -/

namespace Sys2Proof

/-- One row of spec/opcode_table.json: it selects the words `CW` with `CW &&& mask = pattern` (R98). -/
structure Row where
  mnemonic : String
  /-- The row's `match`. -/
  pattern : Word
  mask : Word
deriving DecidableEq, Repr

/-- Whether a row selects a command word (R98). -/
def Row.selects (r : Row) (cw : Word) : Bool := decide (cw &&& r.mask = r.pattern)

/-- Format C, `W = 0` (R93, R160 to R179). -/
def rowsReads : List Row :=
  [⟨"RD.U8", 0x00000000#32, 0xFFFFFFFF#32⟩,
   ⟨"RD.I8", 0x01000000#32, 0xFFFFFFFF#32⟩,
   ⟨"RD.U16LE", 0x02000000#32, 0xFFFFFFFF#32⟩,
   ⟨"RD.U16BE", 0x12000000#32, 0xFFFFFFFF#32⟩,
   ⟨"RD.I16LE", 0x03000000#32, 0xFFFFFFFF#32⟩,
   ⟨"RD.I16BE", 0x13000000#32, 0xFFFFFFFF#32⟩,
   ⟨"RD.U32LE", 0x04000000#32, 0xFFFFFFFF#32⟩,
   ⟨"RD.U32BE", 0x14000000#32, 0xFFFFFFFF#32⟩,
   ⟨"RD.I32LE", 0x05000000#32, 0xFFFFFFFF#32⟩,
   ⟨"RD.I32BE", 0x15000000#32, 0xFFFFFFFF#32⟩,
   ⟨"RD.U48LE", 0x06000000#32, 0xFFFFFFFF#32⟩,
   ⟨"RD.U48BE", 0x16000000#32, 0xFFFFFFFF#32⟩,
   ⟨"RD.U64LE", 0x08000000#32, 0xFFFFFFFF#32⟩,
   ⟨"RD.U64BE", 0x18000000#32, 0xFFFFFFFF#32⟩,
   ⟨"RD.I64LE", 0x09000000#32, 0xFFFFFFFF#32⟩,
   ⟨"RD.I64BE", 0x19000000#32, 0xFFFFFFFF#32⟩,
   ⟨"RD.F32LE", 0x0A000000#32, 0xFFFFFFFF#32⟩,
   ⟨"RD.F32BE", 0x1A000000#32, 0xFFFFFFFF#32⟩,
   ⟨"RD.F64LE", 0x0B000000#32, 0xFFFFFFFF#32⟩,
   ⟨"RD.F64BE", 0x1B000000#32, 0xFFFFFFFF#32⟩]

/-- Format C, `W = 1` (R93, R180 to R199). -/
def rowsWrites : List Row :=
  [⟨"WR.U8", 0x20000000#32, 0xFFFFFFFF#32⟩,
   ⟨"WR.I8", 0x21000000#32, 0xFFFFFFFF#32⟩,
   ⟨"WR.U16LE", 0x22000000#32, 0xFFFFFFFF#32⟩,
   ⟨"WR.U16BE", 0x32000000#32, 0xFFFFFFFF#32⟩,
   ⟨"WR.I16LE", 0x23000000#32, 0xFFFFFFFF#32⟩,
   ⟨"WR.I16BE", 0x33000000#32, 0xFFFFFFFF#32⟩,
   ⟨"WR.U32LE", 0x24000000#32, 0xFFFFFFFF#32⟩,
   ⟨"WR.U32BE", 0x34000000#32, 0xFFFFFFFF#32⟩,
   ⟨"WR.I32LE", 0x25000000#32, 0xFFFFFFFF#32⟩,
   ⟨"WR.I32BE", 0x35000000#32, 0xFFFFFFFF#32⟩,
   ⟨"WR.U48LE", 0x26000000#32, 0xFFFFFFFF#32⟩,
   ⟨"WR.U48BE", 0x36000000#32, 0xFFFFFFFF#32⟩,
   ⟨"WR.U64LE", 0x28000000#32, 0xFFFFFFFF#32⟩,
   ⟨"WR.U64BE", 0x38000000#32, 0xFFFFFFFF#32⟩,
   ⟨"WR.I64LE", 0x29000000#32, 0xFFFFFFFF#32⟩,
   ⟨"WR.I64BE", 0x39000000#32, 0xFFFFFFFF#32⟩,
   ⟨"WR.F32LE", 0x2A000000#32, 0xFFFFFFFF#32⟩,
   ⟨"WR.F32BE", 0x3A000000#32, 0xFFFFFFFF#32⟩,
   ⟨"WR.F64LE", 0x2B000000#32, 0xFFFFFFFF#32⟩,
   ⟨"WR.F64BE", 0x3B000000#32, 0xFFFFFFFF#32⟩]

/-- Format L (R95). -/
def rowsLink : List Row :=
  [⟨"LH.SET", 0x40000000#32, 0xFFFF0000#32⟩,
   ⟨"LH.GET", 0x41000000#32, 0xFFFFFFFF#32⟩,
   ⟨"LH.READ", 0x42000000#32, 0xFFFFFFFF#32⟩,
   ⟨"LH.WRITE", 0x43000000#32, 0xFFFFFFFF#32⟩,
   ⟨"LH.CTRL", 0x44000000#32, 0xFFFFF800#32⟩,
   ⟨"LH.CHFCB", 0x45000000#32, 0xFFFFFFFE#32⟩,
   ⟨"LH.FUNC", 0x46000000#32, 0xFFFFFFFF#32⟩,
   ⟨"CRC.CALC", 0x47000000#32, 0xFFFFFFFF#32⟩]

/-- Format T (R96). -/
def rowsTransport : List Row :=
  [⟨"TL.UP", 0x50000000#32, 0xFFFFFFFF#32⟩,
   ⟨"TL.DOWN", 0x51000000#32, 0xFFFFFFFF#32⟩,
   ⟨"TL.SEND", 0x52000000#32, 0xFFFFFFFF#32⟩,
   ⟨"TL.RECV", 0x53000000#32, 0xFFFFFFFF#32⟩,
   ⟨"TL.SUCC", 0x54000000#32, 0xFFFFFFFF#32⟩,
   ⟨"TL.FAIL", 0x55000000#32, 0xFFFFFFFF#32⟩]

/-- Format O (R97). -/
def rowsObjects : List Row :=
  [⟨"OH.PARSE", 0x60000000#32, 0xFFFE0000#32⟩,
   ⟨"OI.INIT", 0x61000000#32, 0xFFFFFFFE#32⟩,
   ⟨"OI.HASDATA", 0x62000000#32, 0xFFFFFFFF#32⟩,
   ⟨"OI.DEREF", 0x63000000#32, 0xFFFFFFFF#32⟩,
   ⟨"OI.INFO", 0x64000000#32, 0xFFFFFFFF#32⟩,
   ⟨"OI.INC", 0x65000000#32, 0xFFFFFFFF#32⟩,
   ⟨"OI.PINC", 0x66000000#32, 0xFFFFFFFF#32⟩,
   ⟨"OI.COUNT", 0x67000000#32, 0xFFFFFFFF#32⟩,
   ⟨"OI.ISEND", 0x68000000#32, 0xFFFFFFFF#32⟩,
   ⟨"OI.SWAP", 0x69000000#32, 0xFFFFFFFF#32⟩]

/-- Format S (R97). -/
def rowsSystem : List Row :=
  [⟨"SYS.STAT", 0x70000000#32, 0xFFFFFFFF#32⟩,
   ⟨"SYS.RESET", 0x71000000#32, 0xFFFFFFFF#32⟩,
   ⟨"SYS.FINFO", 0x72000000#32, 0xFFFFFFFF#32⟩]

/-- The complete opcode map (R98): 67 rows. -/
def opcodeTable : List Row :=
  rowsReads ++ rowsWrites ++ rowsLink ++ rowsTransport ++ rowsObjects ++ rowsSystem

/-- First check of a command word: its `OPC` byte is the opcode of some row (R98). -/
def opcodeAssigned (cw : Word) : Bool :=
  opcodeTable.any fun r => decide (cw.extractLsb' 24 8 = r.pattern.extractLsb' 24 8)

/-- Both checks of a command word (R98, R347): some row selects it, so its opcode is in the map and every `ARG` bit
its format does not name is 0. `OPA` and `OPB` are never a cause. -/
def wellFormedWord (cw : Word) : Bool := opcodeTable.any fun r => r.selects cw

/-- The row's mnemonic of each instruction. -/
def Instr.mnemonic : Instr → String
  | .rdU8 _ => "RD.U8"
  | .rdI8 _ => "RD.I8"
  | .rdU16LE _ => "RD.U16LE"
  | .rdU16BE _ => "RD.U16BE"
  | .rdI16LE _ => "RD.I16LE"
  | .rdI16BE _ => "RD.I16BE"
  | .rdU32LE _ => "RD.U32LE"
  | .rdU32BE _ => "RD.U32BE"
  | .rdI32LE _ => "RD.I32LE"
  | .rdI32BE _ => "RD.I32BE"
  | .rdU48LE _ => "RD.U48LE"
  | .rdU48BE _ => "RD.U48BE"
  | .rdU64LE _ => "RD.U64LE"
  | .rdU64BE _ => "RD.U64BE"
  | .rdI64LE _ => "RD.I64LE"
  | .rdI64BE _ => "RD.I64BE"
  | .rdF32LE _ => "RD.F32LE"
  | .rdF32BE _ => "RD.F32BE"
  | .rdF64LE _ => "RD.F64LE"
  | .rdF64BE _ => "RD.F64BE"
  | .wrU8 _ _ => "WR.U8"
  | .wrI8 _ _ => "WR.I8"
  | .wrU16LE _ _ => "WR.U16LE"
  | .wrU16BE _ _ => "WR.U16BE"
  | .wrI16LE _ _ => "WR.I16LE"
  | .wrI16BE _ _ => "WR.I16BE"
  | .wrU32LE _ _ => "WR.U32LE"
  | .wrU32BE _ _ => "WR.U32BE"
  | .wrI32LE _ _ => "WR.I32LE"
  | .wrI32BE _ _ => "WR.I32BE"
  | .wrU48LE _ _ => "WR.U48LE"
  | .wrU48BE _ _ => "WR.U48BE"
  | .wrU64LE _ _ => "WR.U64LE"
  | .wrU64BE _ _ => "WR.U64BE"
  | .wrI64LE _ _ => "WR.I64LE"
  | .wrI64BE _ _ => "WR.I64BE"
  | .wrF32LE _ _ => "WR.F32LE"
  | .wrF32BE _ _ => "WR.F32BE"
  | .wrF64LE _ _ => "WR.F64LE"
  | .wrF64BE _ _ => "WR.F64BE"
  | .lhSet _ _ _ _ => "LH.SET"
  | .lhGet => "LH.GET"
  | .lhRead _ => "LH.READ"
  | .lhWrite _ => "LH.WRITE"
  | .lhCtrl _ _ _ _ => "LH.CTRL"
  | .lhChfcb _ => "LH.CHFCB"
  | .lhFunc => "LH.FUNC"
  | .crcCalc _ _ => "CRC.CALC"
  | .tlUp => "TL.UP"
  | .tlDown => "TL.DOWN"
  | .tlSend _ _ => "TL.SEND"
  | .tlRecv _ _ => "TL.RECV"
  | .tlSucc => "TL.SUCC"
  | .tlFail => "TL.FAIL"
  | .ohParse _ _ _ => "OH.PARSE"
  | .oiInit _ _ => "OI.INIT"
  | .oiHasdata => "OI.HASDATA"
  | .oiDeref => "OI.DEREF"
  | .oiInfo => "OI.INFO"
  | .oiInc => "OI.INC"
  | .oiPinc => "OI.PINC"
  | .oiCount => "OI.COUNT"
  | .oiIsend => "OI.ISEND"
  | .oiSwap => "OI.SWAP"
  | .sysStat => "SYS.STAT"
  | .sysReset => "SYS.RESET"
  | .sysFinfo => "SYS.FINFO"

end Sys2Proof
end

