-- ==== Sys2Proof/Decode.lean ====
section
/-! DEFINITION. The decoder and, after it, the encoder of the command frame (30_encoding.md rules R92 to R99). -/

namespace Sys2Proof

/-- Why a command word is no instruction (R98). Either way the command raises `ERR_ILLEGAL_CMD` (R347). -/
inductive DecodeError where
  /-- The `OPC` byte is not in the opcode map. -/
  | unassignedOpcode
  /-- The opcode is in the map and an `ARG` bit that its format does not name is 1. -/
  | reservedArgBit
deriving DecidableEq, Repr

/-- `OPC`, bits 31:24 of `CW` (R92). -/
def opcodeField (cw : Word) : Byte := cw.extractLsb' 24 8

/-- `ARG`, bits 23:0 of `CW` (R92). -/
def argField (cw : Word) : BitVec 24 := cw.extractLsb' 0 24

/-- The object type that the bit `ARG[16]` of `OH.PARSE` names (R97). -/
def ObjType.ofBit (b : Bool) : ObjType := if b then .bitfield else .fixed

/-- The bit of an object type (R31, R97). -/
def ObjType.bit : ObjType → Bool
  | .fixed => false
  | .bitfield => true

/-- The instruction `i` of a format that names the `ARG` bits `named`: legal only where every other `ARG` bit is 0
(R92, R98). -/
def withArg (named : BitVec 24) (cw : Word) (i : Instr) : Except DecodeError Instr :=
  if argField cw &&& ~~~named = 0 then .ok i else .error .reservedArgBit

/-- A format whose `ARG` must be 0. -/
def noArg (cw : Word) (i : Instr) : Except DecodeError Instr := withArg 0 cw i

/-- The decoder: total on every frame, the opcode map of rule R98 row by row. -/
def decode (f : Frame) : Except DecodeError Instr :=
  match (opcodeField f.cw).toNat with
  | 0x00 => noArg f.cw (.rdU8 f.opa)
  | 0x01 => noArg f.cw (.rdI8 f.opa)
  | 0x02 => noArg f.cw (.rdU16LE f.opa)
  | 0x12 => noArg f.cw (.rdU16BE f.opa)
  | 0x03 => noArg f.cw (.rdI16LE f.opa)
  | 0x13 => noArg f.cw (.rdI16BE f.opa)
  | 0x04 => noArg f.cw (.rdU32LE f.opa)
  | 0x14 => noArg f.cw (.rdU32BE f.opa)
  | 0x05 => noArg f.cw (.rdI32LE f.opa)
  | 0x15 => noArg f.cw (.rdI32BE f.opa)
  | 0x06 => noArg f.cw (.rdU48LE f.opa)
  | 0x16 => noArg f.cw (.rdU48BE f.opa)
  | 0x08 => noArg f.cw (.rdU64LE f.opa)
  | 0x18 => noArg f.cw (.rdU64BE f.opa)
  | 0x09 => noArg f.cw (.rdI64LE f.opa)
  | 0x19 => noArg f.cw (.rdI64BE f.opa)
  | 0x0A => noArg f.cw (.rdF32LE f.opa)
  | 0x1A => noArg f.cw (.rdF32BE f.opa)
  | 0x0B => noArg f.cw (.rdF64LE f.opa)
  | 0x1B => noArg f.cw (.rdF64BE f.opa)
  | 0x20 => noArg f.cw (.wrU8 f.opa f.opb)
  | 0x21 => noArg f.cw (.wrI8 f.opa f.opb)
  | 0x22 => noArg f.cw (.wrU16LE f.opa f.opb)
  | 0x32 => noArg f.cw (.wrU16BE f.opa f.opb)
  | 0x23 => noArg f.cw (.wrI16LE f.opa f.opb)
  | 0x33 => noArg f.cw (.wrI16BE f.opa f.opb)
  | 0x24 => noArg f.cw (.wrU32LE f.opa f.opb)
  | 0x34 => noArg f.cw (.wrU32BE f.opa f.opb)
  | 0x25 => noArg f.cw (.wrI32LE f.opa f.opb)
  | 0x35 => noArg f.cw (.wrI32BE f.opa f.opb)
  | 0x26 => noArg f.cw (.wrU48LE f.opa f.opb)
  | 0x36 => noArg f.cw (.wrU48BE f.opa f.opb)
  | 0x28 => noArg f.cw (.wrU64LE f.opa f.opb)
  | 0x38 => noArg f.cw (.wrU64BE f.opa f.opb)
  | 0x29 => noArg f.cw (.wrI64LE f.opa f.opb)
  | 0x39 => noArg f.cw (.wrI64BE f.opa f.opb)
  | 0x2A => noArg f.cw (.wrF32LE f.opa f.opb)
  | 0x3A => noArg f.cw (.wrF32BE f.opa f.opb)
  | 0x2B => noArg f.cw (.wrF64LE f.opa f.opb)
  | 0x3B => noArg f.cw (.wrF64BE f.opa f.opb)
  | 0x40 => withArg 0x00FFFF#24 f.cw (.lhSet (f.cw.extractLsb' 8 8) (f.cw.extractLsb' 0 8) (f.opa.extractLsb' 0 16) (f.opa.extractLsb' 16 16))
  | 0x41 => noArg f.cw .lhGet
  | 0x42 => noArg f.cw (.lhRead f.opa)
  | 0x43 => noArg f.cw (.lhWrite f.opa)
  | 0x44 => withArg 0x0007FF#24 f.cw (.lhCtrl (f.cw.getLsbD 10) (f.cw.getLsbD 9) (f.cw.getLsbD 8) (f.cw.extractLsb' 0 8))
  | 0x45 => withArg 0x000001#24 f.cw (.lhChfcb (f.cw.getLsbD 0))
  | 0x46 => noArg f.cw .lhFunc
  | 0x47 => noArg f.cw (.crcCalc f.opa f.opb)
  | 0x50 => noArg f.cw .tlUp
  | 0x51 => noArg f.cw .tlDown
  | 0x52 => noArg f.cw (.tlSend f.opa f.opb)
  | 0x53 => noArg f.cw (.tlRecv f.opa f.opb)
  | 0x54 => noArg f.cw .tlSucc
  | 0x55 => noArg f.cw .tlFail
  | 0x60 => withArg 0x01FFFF#24 f.cw (.ohParse (ObjType.ofBit (f.cw.getLsbD 16)) (f.cw.extractLsb' 0 16) f.opa)
  | 0x61 => withArg 0x000001#24 f.cw (.oiInit (f.cw.getLsbD 0) f.opa)
  | 0x62 => noArg f.cw .oiHasdata
  | 0x63 => noArg f.cw .oiDeref
  | 0x64 => noArg f.cw .oiInfo
  | 0x65 => noArg f.cw .oiInc
  | 0x66 => noArg f.cw .oiPinc
  | 0x67 => noArg f.cw .oiCount
  | 0x68 => noArg f.cw .oiIsend
  | 0x69 => noArg f.cw .oiSwap
  | 0x70 => noArg f.cw .sysStat
  | 0x71 => noArg f.cw .sysReset
  | 0x72 => noArg f.cw .sysFinfo
  | _ => .error .unassignedOpcode

/-! The encoder, written from the same tables. -/

/-- The `OPC` byte of each instruction (R98). -/
def Instr.opcode : Instr → Byte
  | .rdU8 _ => 0x00
  | .rdI8 _ => 0x01
  | .rdU16LE _ => 0x02
  | .rdU16BE _ => 0x12
  | .rdI16LE _ => 0x03
  | .rdI16BE _ => 0x13
  | .rdU32LE _ => 0x04
  | .rdU32BE _ => 0x14
  | .rdI32LE _ => 0x05
  | .rdI32BE _ => 0x15
  | .rdU48LE _ => 0x06
  | .rdU48BE _ => 0x16
  | .rdU64LE _ => 0x08
  | .rdU64BE _ => 0x18
  | .rdI64LE _ => 0x09
  | .rdI64BE _ => 0x19
  | .rdF32LE _ => 0x0A
  | .rdF32BE _ => 0x1A
  | .rdF64LE _ => 0x0B
  | .rdF64BE _ => 0x1B
  | .wrU8 _ _ => 0x20
  | .wrI8 _ _ => 0x21
  | .wrU16LE _ _ => 0x22
  | .wrU16BE _ _ => 0x32
  | .wrI16LE _ _ => 0x23
  | .wrI16BE _ _ => 0x33
  | .wrU32LE _ _ => 0x24
  | .wrU32BE _ _ => 0x34
  | .wrI32LE _ _ => 0x25
  | .wrI32BE _ _ => 0x35
  | .wrU48LE _ _ => 0x26
  | .wrU48BE _ _ => 0x36
  | .wrU64LE _ _ => 0x28
  | .wrU64BE _ _ => 0x38
  | .wrI64LE _ _ => 0x29
  | .wrI64BE _ _ => 0x39
  | .wrF32LE _ _ => 0x2A
  | .wrF32BE _ _ => 0x3A
  | .wrF64LE _ _ => 0x2B
  | .wrF64BE _ _ => 0x3B
  | .lhSet _ _ _ _ => 0x40
  | .lhGet => 0x41
  | .lhRead _ => 0x42
  | .lhWrite _ => 0x43
  | .lhCtrl _ _ _ _ => 0x44
  | .lhChfcb _ => 0x45
  | .lhFunc => 0x46
  | .crcCalc _ _ => 0x47
  | .tlUp => 0x50
  | .tlDown => 0x51
  | .tlSend _ _ => 0x52
  | .tlRecv _ _ => 0x53
  | .tlSucc => 0x54
  | .tlFail => 0x55
  | .ohParse _ _ _ => 0x60
  | .oiInit _ _ => 0x61
  | .oiHasdata => 0x62
  | .oiDeref => 0x63
  | .oiInfo => 0x64
  | .oiInc => 0x65
  | .oiPinc => 0x66
  | .oiCount => 0x67
  | .oiIsend => 0x68
  | .oiSwap => 0x69
  | .sysStat => 0x70
  | .sysReset => 0x71
  | .sysFinfo => 0x72

/-- The `ARG` field of each instruction (R93 to R97). -/
def Instr.arg : Instr → BitVec 24
  | .lhSet len ctrl _ _ => 0#8 ++ len ++ ctrl
  | .lhCtrl dir fcb fcv func => 0#13 ++ BitVec.ofBool dir ++ BitVec.ofBool fcb ++ BitVec.ofBool fcv ++ func
  | .lhChfcb fcb => 0#23 ++ BitVec.ofBool fcb
  | .ohParse otype osize _ => 0#7 ++ BitVec.ofBool otype.bit ++ osize
  | .oiInit hasdata _ => 0#23 ++ BitVec.ofBool hasdata
  | .rdU8 _ => 0
  | .rdI8 _ => 0
  | .rdU16LE _ => 0
  | .rdU16BE _ => 0
  | .rdI16LE _ => 0
  | .rdI16BE _ => 0
  | .rdU32LE _ => 0
  | .rdU32BE _ => 0
  | .rdI32LE _ => 0
  | .rdI32BE _ => 0
  | .rdU48LE _ => 0
  | .rdU48BE _ => 0
  | .rdU64LE _ => 0
  | .rdU64BE _ => 0
  | .rdI64LE _ => 0
  | .rdI64BE _ => 0
  | .rdF32LE _ => 0
  | .rdF32BE _ => 0
  | .rdF64LE _ => 0
  | .rdF64BE _ => 0
  | .wrU8 _ _ => 0
  | .wrI8 _ _ => 0
  | .wrU16LE _ _ => 0
  | .wrU16BE _ _ => 0
  | .wrI16LE _ _ => 0
  | .wrI16BE _ _ => 0
  | .wrU32LE _ _ => 0
  | .wrU32BE _ _ => 0
  | .wrI32LE _ _ => 0
  | .wrI32BE _ _ => 0
  | .wrU48LE _ _ => 0
  | .wrU48BE _ _ => 0
  | .wrU64LE _ _ => 0
  | .wrU64BE _ _ => 0
  | .wrI64LE _ _ => 0
  | .wrI64BE _ _ => 0
  | .wrF32LE _ _ => 0
  | .wrF32BE _ _ => 0
  | .wrF64LE _ _ => 0
  | .wrF64BE _ _ => 0
  | .lhGet => 0
  | .lhRead _ => 0
  | .lhWrite _ => 0
  | .lhFunc => 0
  | .crcCalc _ _ => 0
  | .tlUp => 0
  | .tlDown => 0
  | .tlSend _ _ => 0
  | .tlRecv _ _ => 0
  | .tlSucc => 0
  | .tlFail => 0
  | .oiHasdata => 0
  | .oiDeref => 0
  | .oiInfo => 0
  | .oiInc => 0
  | .oiPinc => 0
  | .oiCount => 0
  | .oiIsend => 0
  | .oiSwap => 0
  | .sysStat => 0
  | .sysReset => 0
  | .sysFinfo => 0

/-- The operand `OPA` of each instruction; 0 where the format ignores it (R93 to R97, R109). -/
def Instr.opa : Instr → Word
  | .rdU8 addr => addr
  | .rdI8 addr => addr
  | .rdU16LE addr => addr
  | .rdU16BE addr => addr
  | .rdI16LE addr => addr
  | .rdI16BE addr => addr
  | .rdU32LE addr => addr
  | .rdU32BE addr => addr
  | .rdI32LE addr => addr
  | .rdI32BE addr => addr
  | .rdU48LE addr => addr
  | .rdU48BE addr => addr
  | .rdU64LE addr => addr
  | .rdU64BE addr => addr
  | .rdI64LE addr => addr
  | .rdI64BE addr => addr
  | .rdF32LE addr => addr
  | .rdF32BE addr => addr
  | .rdF64LE addr => addr
  | .rdF64BE addr => addr
  | .wrU8 addr _ => addr
  | .wrI8 addr _ => addr
  | .wrU16LE addr _ => addr
  | .wrU16BE addr _ => addr
  | .wrI16LE addr _ => addr
  | .wrI16BE addr _ => addr
  | .wrU32LE addr _ => addr
  | .wrU32BE addr _ => addr
  | .wrI32LE addr _ => addr
  | .wrI32BE addr _ => addr
  | .wrU48LE addr _ => addr
  | .wrU48BE addr _ => addr
  | .wrU64LE addr _ => addr
  | .wrU64BE addr _ => addr
  | .wrI64LE addr _ => addr
  | .wrI64BE addr _ => addr
  | .wrF32LE addr _ => addr
  | .wrF32BE addr _ => addr
  | .wrF64LE addr _ => addr
  | .wrF64BE addr _ => addr
  | .lhSet _ _ dest src => src ++ dest
  | .lhGet => 0
  | .lhRead addr => addr
  | .lhWrite addr => addr
  | .lhCtrl _ _ _ _ => 0
  | .lhChfcb _ => 0
  | .lhFunc => 0
  | .crcCalc addr _ => addr
  | .tlUp => 0
  | .tlDown => 0
  | .tlSend addr _ => addr
  | .tlRecv addr _ => addr
  | .tlSucc => 0
  | .tlFail => 0
  | .ohParse _ _ addr => addr
  | .oiInit _ dataaddr => dataaddr
  | .oiHasdata => 0
  | .oiDeref => 0
  | .oiInfo => 0
  | .oiInc => 0
  | .oiPinc => 0
  | .oiCount => 0
  | .oiIsend => 0
  | .oiSwap => 0
  | .sysStat => 0
  | .sysReset => 0
  | .sysFinfo => 0

/-- The operand `OPB` of each instruction; 0 where the format ignores it (R93 to R97, R109). -/
def Instr.opb : Instr → DWord
  | .rdU8 _ => 0
  | .rdI8 _ => 0
  | .rdU16LE _ => 0
  | .rdU16BE _ => 0
  | .rdI16LE _ => 0
  | .rdI16BE _ => 0
  | .rdU32LE _ => 0
  | .rdU32BE _ => 0
  | .rdI32LE _ => 0
  | .rdI32BE _ => 0
  | .rdU48LE _ => 0
  | .rdU48BE _ => 0
  | .rdU64LE _ => 0
  | .rdU64BE _ => 0
  | .rdI64LE _ => 0
  | .rdI64BE _ => 0
  | .rdF32LE _ => 0
  | .rdF32BE _ => 0
  | .rdF64LE _ => 0
  | .rdF64BE _ => 0
  | .wrU8 _ value => value
  | .wrI8 _ value => value
  | .wrU16LE _ value => value
  | .wrU16BE _ value => value
  | .wrI16LE _ value => value
  | .wrI16BE _ value => value
  | .wrU32LE _ value => value
  | .wrU32BE _ value => value
  | .wrI32LE _ value => value
  | .wrI32BE _ value => value
  | .wrU48LE _ value => value
  | .wrU48BE _ value => value
  | .wrU64LE _ value => value
  | .wrU64BE _ value => value
  | .wrI64LE _ value => value
  | .wrI64BE _ value => value
  | .wrF32LE _ value => value
  | .wrF32BE _ value => value
  | .wrF64LE _ value => value
  | .wrF64BE _ value => value
  | .lhSet _ _ _ _ => 0
  | .lhGet => 0
  | .lhRead _ => 0
  | .lhWrite _ => 0
  | .lhCtrl _ _ _ _ => 0
  | .lhChfcb _ => 0
  | .lhFunc => 0
  | .crcCalc _ len => len
  | .tlUp => 0
  | .tlDown => 0
  | .tlSend _ len => len
  | .tlRecv _ len => len
  | .tlSucc => 0
  | .tlFail => 0
  | .ohParse _ _ _ => 0
  | .oiInit _ _ => 0
  | .oiHasdata => 0
  | .oiDeref => 0
  | .oiInfo => 0
  | .oiInc => 0
  | .oiPinc => 0
  | .oiCount => 0
  | .oiIsend => 0
  | .oiSwap => 0
  | .sysStat => 0
  | .sysReset => 0
  | .sysFinfo => 0

/-- The command word of an instruction: `CW = (OPC << 24) | ARG` (R92, R109). -/
def Instr.word (i : Instr) : Word := i.opcode ++ i.arg

/-- The frame of an instruction (R109). -/
def encode (i : Instr) : Frame where
  cw := i.word
  opa := i.opa
  opb := i.opb

/-- Whether an instruction's own command word passes the checks of WellFormed.lean. -/
def Instr.wellFormed (i : Instr) : Bool := wellFormedWord (encode i).cw

/-- A frame from its bits, numbered as spec/opcode_table.json numbers them: `CW` is the first word (bits 31:0), then
`OPA` (bits 63:32), then `OPB` (bits 127:64) (R90; the order of the fields is log 9). -/
def frameOfBits (w : Nat) : Frame where
  cw := BitVec.ofNat 32 w
  opa := BitVec.ofNat 32 (w / 2 ^ 32)
  opb := BitVec.ofNat 64 (w / 2 ^ 64)

/-- The frame whose low `nbits` bits are those of `w` and whose other bits are 0. -/
def tableFrame (nbits w : Nat) : Frame := frameOfBits (w % 2 ^ nbits)

/-- The instruction the decoder reads from the bits `w` of a row of the opcode table. -/
def decodeTableWord (nbits w : Nat) : Option Instr :=
  match decode (tableFrame nbits w) with
  | .ok i => some i
  | .error _ => none

end Sys2Proof
end

