-- ==== Sys2Proof/Config.lean ====
section
/-! DEFINITION. The three implementation parameters of the DCB (00_scope.md rule R9). -/

namespace Sys2Proof

/-- The parameters of rule R9, which are arguments and no state (10_state.md R35). A step gets them beside the DCB's
state (`Boundary.cfg`, log 3), so that a statement about every argument is a statement about every choice of them. -/
structure Config where
  /-- `BUF_SIZE`, the number of bytes of `BUF`. -/
  bufSize : Nat
  /-- `FRAG_SIZE`, the largest APDU and the capacity of `RX_BUF`. -/
  fragSize : Nat
  /-- `SEG_PAYLOAD`, the largest number of APDU bytes in one segment. -/
  segPayload : Nat
deriving DecidableEq, Repr

/-- The constraints rule R9 puts on the parameters. -/
def Config.legal (c : Config) : Bool :=
  decide (1 ≤ c.bufSize) && decide (c.bufSize ≤ 2 ^ 32) && decide (1 ≤ c.fragSize) && decide (1 ≤ c.segPayload)

/-- The parameters `State.reset` has. `FRAG_SIZE` and `SEG_PAYLOAD` are the defaults rule R9 names;
`BUF_SIZE` is OPEN there: DESIGN CHOICE (log 3, unsafe for a claim about `State.reset` alone). -/
def Config.standard : Config where
  bufSize := 65536
  fragSize := 2048
  segPayload := 249

end Sys2Proof
end

