-- ==== Sys2Proof/Machine/State.lean ====
section
/-! DEFINITION. The state of the DCB: every piece of state 10_state.md names, the two memories, and beside it what
crosses its boundary in a step (the parameters, the host's pending actions, the response). -/

namespace Sys2Proof.Machine

open Sys2Proof

/-- A memory: the listed (address, byte) pairs, addresses strictly rising, no entry equal to what an unlisted address
reads as (`Memory.wf` in Machine/Ops.lean). -/
abbrev Memory := List Host.Cell

/-- `FSR`, the fault status register (10_state.md R24). -/
structure FaultStatus where
  /-- `FSR.FCODE`: status code of the first error since reset, 0x00 if none. -/
  fcode : Byte
  /-- `FSR.FOPC`: the `OPC` byte of the command that raised it. -/
  fopc : Byte
  /-- `FSR.FINFO`: the `info` value of that raise. -/
  finfo : DWord
deriving DecidableEq, Repr

/-- `LH`, the link header register (10_state.md R26). -/
structure LinkHeader where
  len : Byte
  ctrl : Byte
  dest : Half
  src : Half
deriving DecidableEq, Repr

/-- `TLS`, the transport layer state (10_state.md R27). Its fourth code is never produced (U10), so the type has
three values. -/
inductive Tls where
  | closed
  | ready
  | sending
deriving DecidableEq, Repr

/-- The transmitter registers (10_state.md R28). -/
structure Transmitter where
  /-- `TX_BASE`: address of byte 0 of the APDU. -/
  base : Word
  /-- `TX_LEN`: length of the APDU. -/
  len : Nat
  /-- `TX_SENT`: APDU bytes in segments whose send completed with success. -/
  sent : Nat
  /-- `TX_SEQ`: sequence number of the next or outstanding segment. -/
  seq : Seq
deriving DecidableEq, Repr

/-- The receiver registers (10_state.md R30). -/
structure Receiver where
  /-- `RX_BUF`: the reassembly buffer. -/
  buf : Memory
  /-- `RX_LEN`: number of valid bytes in `RX_BUF`. -/
  len : Nat
  /-- `RX_SEQ`: sequence number of the last segment accepted. -/
  seq : Seq
  /-- `RX_ACTIVE`: a reassembly is in progress. -/
  active : Bool
deriving DecidableEq, Repr

/-- `HTYPE`, the header type a qualifier selects (10_state.md R31; 30_encoding.md R106). -/
inductive HeaderType where
  | ranged
  | all
  | count
  | countIndex
deriving DecidableEq, Repr

/-- `PFX`, the prefix size: a value in {0, 1, 2, 4} (10_state.md R31). -/
inductive PrefixSize where
  | none
  | one
  | two
  | four
deriving DecidableEq, Repr

/-- A `HeaderInfo`: the register `HI` and the field `IT.H` (10_state.md R31). -/
structure HeaderInfo where
  group : Byte
  var : Byte
  qual : Byte
  htype : HeaderType
  otype : ObjType
  /-- `OSIZE`: bytes of one FIXED object without its prefix. -/
  osize : Half
  pfx : PrefixSize
  /-- `COUNT`: a natural, at most `2^32`. -/
  count : Nat
  /-- `START`: first index of a RANGED header, 0 for the others. -/
  start : Word
  /-- `HDRLEN`: bytes of the header with its range or count field. -/
  hdrlen : BitVec 4
deriving DecidableEq, Repr

/-- An iterator: the registers `IT` and `ITS` (10_state.md R32, R33). -/
structure Iter where
  /-- `IT.H`: the header it walks, a copy taken by `OI.INIT`. -/
  h : HeaderInfo
  /-- `IT.N`: current object number. -/
  n : Nat
  /-- `IT.HASDATA`: the objects carry bytes in `BUF`. -/
  hasData : Bool
  /-- `IT.PFXPOS`: address of the current object's prefix. -/
  pfxPos : DWord
  /-- `IT.POS`: address of the current object's payload. -/
  pos : DWord
  /-- `IT.INDEX`: the current object's index. -/
  index : Word
  /-- `IT.START`: the starting index of the containing collection. -/
  start : Word
deriving DecidableEq, Repr

/-- An output event of the transport unit (42_transport.md R230). -/
inductive Event where
  /-- One TPDU to the lower layer: header byte, then payload. -/
  | lowerSend (bytes : List Byte)
  | upperLayerUp
  | upperLayerDown
  | upperSendSuccess
  | upperSendFailure
  /-- The reassembled APDU to the upper layer. -/
  | upperReceive (bytes : List Byte)
deriving DecidableEq, Repr

/-- What a command answers: the response `(ST, RES)` (30_encoding.md R91) and the event list `EV` (00_scope.md R8). -/
structure Response where
  st : Byte
  res : DWord
  ev : List Event
deriving DecidableEq, Repr

/-- What the host does at the DCB's boundary (00_scope.md R6, R8): it issues a command, or it stores bytes into `BUF`
between two commands. A host read changes nothing, so it is not listed (log 7). -/
inductive HostAct where
  | command (f : Frame)
  | store (addr : Nat) (bytes : List Byte)
deriving DecidableEq, Repr

/-- The state of the DCB: each register and each memory of 10_state.md, and nothing else. The parameters, the command
frame, the response and the events are not in it (R20, R35), nor is there an event queue or a table of object types. -/
structure Dcb where
  /-- `HALT` (R23). -/
  halt : Bool
  /-- `FSR` (R24). -/
  fsr : FaultStatus
  /-- `LH` (R26). -/
  lh : LinkHeader
  /-- `TLS` (R27). -/
  tls : Tls
  /-- `TX_BASE`, `TX_LEN`, `TX_SENT`, `TX_SEQ` (R28). -/
  tx : Transmitter
  /-- `RX_BUF`, `RX_LEN`, `RX_SEQ`, `RX_ACTIVE` (R30). -/
  rx : Receiver
  /-- `HI` (R31). -/
  hi : HeaderInfo
  /-- `IT` (R32). -/
  it : Iter
  /-- `ITS` (R33). -/
  its : Iter
  /-- `BUF` (R34). -/
  buf : Memory
deriving DecidableEq, Repr

/-- What crosses the DCB's boundary in a step and is no state of it (R20, R35): the arguments of the step besides the
state, which are the parameters and what the host does, and its output. -/
structure Boundary where
  /-- The parameters `BUF_SIZE`, `FRAG_SIZE`, `SEG_PAYLOAD` (00_scope.md R9); no step writes them (log 3). -/
  cfg : Config
  /-- What the host will do next, in order; a step takes the first of it off (log 1). -/
  inp : List HostAct
  /-- The response and the events of this very step; `none` where the step ran no command (log 2). -/
  rsp : Option Response
deriving DecidableEq, Repr

/-- What a step takes and what it answers: the DCB's state with its boundary beside it. The fixed form of a step has
one argument and one result, so both travel together (logs 1, 2 and 3). -/
structure State extends Dcb, Boundary
deriving DecidableEq, Repr

/-- Why the model stops. -/
inductive Fault where
  /-- Raised by a step whose pending host action stores outside `BUF`: the spec gives no meaning to a host access to a
  byte that does not exist (20_memory.md R60; log 6). Safe: the machine goes nowhere from it. -/
  | hostStoreRange
deriving DecidableEq, Repr

/-- Why a step has no meaning. -/
inductive Refusal where
  /-- Raised by an arm of `exec` whose instruction has no meaning yet; no arm is so. Safe. -/
  | notModelled (mnemonic : String)
deriving DecidableEq, Repr

/-- The errors a command can raise (60_exceptions.md R341). -/
inductive ErrCode where
  | argRange
  | iterNoData
  | iterOutOfBounds
  | badQualifier
  | badRange
  | illegalCmd
  | fatalBufRange
deriving DecidableEq, Repr

/-- A raise: the error and its `info` value (00_scope.md R13; 60_exceptions.md R343). -/
structure Raise where
  err : ErrCode
  info : DWord
deriving DecidableEq, Repr

/-- `HI` after reset (10_state.md R31): every field zero. -/
def HeaderInfo.zero : HeaderInfo where
  group := 0
  var := 0
  qual := 0
  htype := .ranged
  otype := .fixed
  osize := 0
  pfx := .none
  count := 0
  start := 0
  hdrlen := 0

/-- `IT` and `ITS` after reset (10_state.md R32, R33): every field zero. -/
def Iter.zero : Iter where
  h := HeaderInfo.zero
  n := 0
  hasData := false
  pfxPos := 0
  pos := 0
  index := 0
  start := 0

/-- The machine right after power-on (10_state.md R36; 70_reset_and_hazards.md R381), for any parameters and any
content of the two memories, which the spec leaves unspecified. Nothing is pending and nothing has been answered. -/
def State.powerOn (cfg : Config) (buf rxBuf : Memory) : State where
  halt := false
  fsr := ⟨0, 0, 0⟩
  lh := ⟨0, 0, 0, 0⟩
  tls := .closed
  tx := ⟨0, 0, 0, 0⟩
  rx := ⟨rxBuf, 0, 0, false⟩
  hi := HeaderInfo.zero
  it := Iter.zero
  its := Iter.zero
  buf := buf
  cfg := cfg
  inp := []
  rsp := none

/-- The machine right after reset: power-on with the parameters of `Config.standard` (log 3) and with nothing listed
in `BUF` and `RX_BUF` (logs 4 and 5). -/
def State.reset : State := State.powerOn Config.standard [] []

end Sys2Proof.Machine
end

