-- ==== Sys2Proof/Machine/Operands.lean ====
section
/-! DEFINITION. Operand forms: byte orders, extension, the 48-bit clamp (00_scope.md R13; 40_byte_codec.md R144 to
R153), and the fixed encodings of the enumerated registers. -/

namespace Sys2Proof.Machine

open Sys2Proof

/-- Byte order, a property of each instruction (20_memory.md R63). -/
inductive ByteOrder where
  | little
  | big
deriving DecidableEq, Repr

/-- `le(bytes)`: the sum of `bytes[i] * 256^i` (00_scope.md R13). -/
def le : List Byte → Nat
  | [] => 0
  | b :: bs => b.toNat + 256 * le bs

/-- `be(bytes)`: `le` of the reversed list (00_scope.md R13). -/
def be (bs : List Byte) : Nat := le bs.reverse

/-- `le_bytes(v, n)`: the `n` bytes of `v`, least significant first (00_scope.md R13). -/
def leBytes (v : Nat) : Nat → List Byte
  | 0 => []
  | n + 1 => BitVec.ofNat 8 v :: leBytes (v / 256) n

/-- `be_bytes(v, n)`: the reverse of `le_bytes(v, n)` (00_scope.md R13). -/
def beBytes (v n : Nat) : List Byte := (leBytes v n).reverse

/-- The number that bytes spell in a byte order (R144). -/
def ByteOrder.value : ByteOrder → List Byte → Nat
  | .little, bs => le bs
  | .big, bs => be bs

/-- The `n` bytes that spell a number in a byte order (R144). -/
def ByteOrder.bytes : ByteOrder → Nat → Nat → List Byte
  | .little, v, n => leBytes v n
  | .big, v, n => beBytes v n

/-- `zext_64` of an unsigned number or a float's bit pattern (00_scope.md R13; 40_byte_codec.md R141, R146). -/
def zext64 (u : Nat) : DWord := BitVec.ofNat 64 u

/-- `sext_64` of the number that `w` bytes spell (00_scope.md R13; 40_byte_codec.md R145). -/
def sext64 (w u : Nat) : DWord := (BitVec.ofNat (8 * w) u).signExtend 64

/-- The value a 48-bit write stores: clamped to `2^48 - 1` when any of bits 63:48 is 1 (40_byte_codec.md R153). -/
def clamp48 (value : DWord) : Nat :=
  if value.extractLsb' 48 16 ≠ 0 then 2 ^ 48 - 1 else (value.extractLsb' 0 48).toNat

/-- The 2-bit code of `TLS` (10_state.md R27). -/
def Tls.code : Tls → BitVec 2
  | .closed => 0
  | .ready => 1
  | .sending => 2

/-- The 2-bit code of `HTYPE` (10_state.md R31). -/
def HeaderType.code : HeaderType → BitVec 2
  | .ranged => 0
  | .all => 1
  | .count => 2
  | .countIndex => 3

/-- The prefix size in bytes (10_state.md R31). -/
def PrefixSize.bytes : PrefixSize → Nat
  | .none => 0
  | .one => 1
  | .two => 2
  | .four => 4

/-- What a qualifier code selects (30_encoding.md R106): header type, `RW` (bytes of each number of the range or count
field), prefix size, `HDRLEN`. -/
structure QualRow where
  htype : HeaderType
  rw : Nat
  pfx : PrefixSize
  hdrlen : Nat
deriving DecidableEq, Repr

/-- The ten qualifier codes of rule R106; every other code has no row. -/
def qualRow (q : Byte) : Option QualRow :=
  match q.toNat with
  | 0x00 => some ⟨.ranged, 1, .none, 5⟩
  | 0x01 => some ⟨.ranged, 2, .none, 7⟩
  | 0x02 => some ⟨.ranged, 4, .none, 11⟩
  | 0x06 => some ⟨.all, 0, .none, 3⟩
  | 0x07 => some ⟨.count, 1, .none, 4⟩
  | 0x08 => some ⟨.count, 2, .none, 5⟩
  | 0x09 => some ⟨.count, 4, .none, 7⟩
  | 0x17 => some ⟨.countIndex, 1, .one, 4⟩
  | 0x28 => some ⟨.countIndex, 2, .two, 5⟩
  | 0x39 => some ⟨.countIndex, 4, .four, 7⟩
  | _ => none

end Sys2Proof.Machine
end

