-- ==== Sys2Proof/Machine/Flags.lean ====
section
/-! DEFINITION. The DCB has no condition codes (10_state.md R25). What it has in their place: the status codes, the
first-error latch, and the bits that responses report (`VALID`, `handled`, the status word). -/

namespace Sys2Proof.Machine

open Sys2Proof

/-- `ST = 0x00`, OK (60_exceptions.md R341). -/
def statusOk : Byte := 0x00

/-- `ST = 0x08`, HALTED: a response code only, never latched (60_exceptions.md R341, R346). -/
def statusHalted : Byte := 0x08

/-- The status code of each error (60_exceptions.md R341). -/
def ErrCode.code : ErrCode → Byte
  | .argRange => 0x01
  | .iterNoData => 0x02
  | .iterOutOfBounds => 0x03
  | .badQualifier => 0x04
  | .badRange => 0x05
  | .illegalCmd => 0x06
  | .fatalBufRange => 0x07

/-- The latch: the first error since reset wins (10_state.md R24; 60_exceptions.md R343). -/
def FaultStatus.latch (f : FaultStatus) (opc : Byte) (r : Raise) : FaultStatus :=
  if f.fcode = 0x00 then ⟨r.err.code, opc, r.info⟩ else f

/-- `HALT` after a raise: only the fatal error sets it (10_state.md R23; 60_exceptions.md R343). -/
def haltAfter (halt : Bool) (e : ErrCode) : Bool :=
  match e with
  | .fatalBufRange => true
  | _ => halt

/-- `VALID`: the link header is structurally valid, `LEN > 4` (41_link_header.md R201, R202). -/
def LinkHeader.valid (h : LinkHeader) : Bool := decide (4 < h.len.toNat)

/-- `PackLH`, the result layout of `LH.SET`, `LH.GET` and `LH.READ` (41_link_header.md R202). -/
def LinkHeader.pack (h : LinkHeader) : DWord :=
  0#15 ++ BitVec.ofBool h.valid ++ h.src ++ h.dest ++ h.ctrl ++ h.len

/-- The result of a `TL.*` command that does not raise: `TLS` after it in bits 1:0, `handled` in bit 8
(42_transport.md R233). -/
def tlResult (t : Tls) (handled : Bool) : DWord := 0#55 ++ BitVec.ofBool handled ++ 0#6 ++ t.code

/-- The status word of `SYS.STAT` (44_system.md R332). -/
def State.statusWord (s : State) : DWord :=
  0#26 ++ s.rx.seq ++ 0#2 ++ s.tx.seq ++ s.fsr.fopc ++ s.fsr.fcode ++ 0#4 ++ BitVec.ofBool s.rx.active
    ++ BitVec.ofBool s.halt ++ s.tls.code

/-- The result of `OH.PARSE` (43_object_iterator.md R284). -/
def HeaderInfo.pack (h : HeaderInfo) : DWord :=
  h.start ++ BitVec.ofBool h.otype.bit ++ BitVec.ofNat 3 h.pfx.bytes ++ h.hdrlen ++ h.qual ++ h.var ++ h.group

/-- The transport header byte: `FIN`, `FIR`, sequence number (30_encoding.md R104). -/
def segmentHeader (fin fir : Bool) (seq : Seq) : Byte := BitVec.ofBool fin ++ BitVec.ofBool fir ++ seq

/-- The answer 1 or 0 of a yes-or-no instruction. -/
def flag64 (b : Bool) : DWord := if b then 1 else 0

end Sys2Proof.Machine
end

