-- ==== Sys2Proof/Machine/Ops.lean ====
section
/-! DEFINITION. The shared operations: the two memories, `MemRead` and `MemWrite`, responding, raising (the DCB's
exception) and the reset that is its only way back, the frame every command runs through, and the CRC. -/

namespace Sys2Proof.Machine

open Sys2Proof

/-! Memory -/

/-- What an unlisted byte reads as. The spec leaves the content of `BUF` and `RX_BUF` at power-on unspecified
(10_state.md R36): DESIGN CHOICE 00 (logs 4 and 5, unsafe for a claim about `State.reset` alone). -/
def Memory.unwritten : Byte := 0x00

/-- The byte at an address. -/
def Memory.read : Memory → Nat → Byte
  | [], _ => Memory.unwritten
  | (k, b) :: m, a => if k = a then b else Memory.read m a

/-- A memory without its entries for an address. -/
def Memory.erase : Memory → Nat → Memory
  | [], _ => []
  | (k, b) :: m, a => if k = a then Memory.erase m a else (k, b) :: Memory.erase m a

/-- An entry put in front of the first entry with a greater address. -/
def Memory.insert : Memory → Nat → Byte → Memory
  | [], a, v => [(a, v)]
  | (k, b) :: m, a, v => if a < k then (a, v) :: (k, b) :: m else (k, b) :: Memory.insert m a v

/-- A byte stored at an address. Storing what an unlisted address reads as removes the entry, so equal memories are
equal lists. -/
def Memory.write (m : Memory) (a : Nat) (v : Byte) : Memory :=
  if v = Memory.unwritten then m.erase a else (m.erase a).insert a v

/-- The `n` bytes from an address on, lowest address first. -/
def Memory.readBytes (m : Memory) (a : Nat) : Nat → List Byte
  | 0 => []
  | n + 1 => m.read a :: Memory.readBytes m (a + 1) n

/-- Bytes stored from an address on. -/
def Memory.writeBytes (m : Memory) (a : Nat) : List Byte → Memory
  | [] => m
  | b :: bs => Memory.writeBytes (m.write a b) (a + 1) bs

/-- Every address listed is above `a`. -/
def Memory.above (a : Nat) : Memory → Bool
  | [] => true
  | (k, _) :: m => decide (a < k) && Memory.above a m

/-- The canonical form: addresses strictly rising, no entry equal to what an unlisted address reads as. -/
def Memory.wf : Memory → Bool
  | [] => true
  | (k, b) :: m => decide (b ≠ Memory.unwritten) && Memory.above k m && Memory.wf m

/-- Every address listed is below `n`. -/
def Memory.below (n : Nat) : Memory → Bool
  | [] => true
  | (k, _) :: m => decide (k < n) && Memory.below n m

/-! Access to `BUF` -/

/-- The raise of an access outside `BUF` (00_scope.md R13; 20_memory.md R62). -/
def bufRange (addr : Nat) : Raise := ⟨.fatalBufRange, BitVec.ofNat 64 addr⟩

/-- `MemRead(addr, n)` (00_scope.md R13): the sum does not wrap; a read of no bytes never raises. -/
def State.memRead (s : State) (addr n : Nat) : Except Raise (List Byte) :=
  if n = 0 then .ok []
  else if s.cfg.bufSize < addr + n then .error (bufRange addr)
  else .ok (s.buf.readBytes addr n)

/-- `MemWrite(addr, n, bytes)` with `n` the number of bytes (00_scope.md R13): the check is made before any byte is
stored. -/
def State.memWrite (s : State) (addr : Nat) (bytes : List Byte) : Except Raise State :=
  if bytes.length = 0 then .ok s
  else if s.cfg.bufSize < addr + bytes.length then .error (bufRange addr)
  else .ok { s with buf := s.buf.writeBytes addr bytes }

/-! Responding -/

/-- `respond(v)` (00_scope.md R13): OK, the result `v`, and no event. -/
def State.respond (s : State) (v : DWord) : State := { s with rsp := some ⟨statusOk, v, []⟩ }

/-- `respond(v)` of a command that has emitted one event (00_scope.md R13; 60_exceptions.md R351). -/
def State.respondWith (s : State) (v : DWord) (e : Event) : State := { s with rsp := some ⟨statusOk, v, [e]⟩ }

/-- `ST` of the command this step ran (30_encoding.md R91); `none` where it ran none. -/
def State.status (s : State) : Option Byte := s.rsp.map Response.st

/-- `RES` of the command this step ran (30_encoding.md R91). -/
def State.result (s : State) : Option DWord := s.rsp.map Response.res

/-- `EV` of this step (00_scope.md R8); a step that ran no command emits nothing. -/
def State.events (s : State) : List Event := s.rsp.elim [] Response.ev

/-! Raising, and the way back -/

/-- `raise E(info)` (60_exceptions.md R343): the latch, the halt for the fatal error, the error's code; nothing else of
the state changes (R344). This is the DCB's taking of an exception: there is no vector and no saved pc (R352). -/
def State.raise (s : State) (opc : Byte) (r : Raise) : State :=
  { s with
    fsr := s.fsr.latch opc r
    halt := haltAfter s.halt r.err
    rsp := some ⟨r.err.code, 0, []⟩ }

/-- The answer to a command while halted (60_exceptions.md R346): nothing but the response changes. -/
def State.refuseHalted (s : State) : State := { s with rsp := some ⟨statusHalted, 0, []⟩ }

/-- Every register at its reset value (10_state.md R36; 44_system.md R333): the only way back from an error (R353).
`BUF` and the bytes of `RX_BUF` keep their content. -/
def State.resetRegisters (s : State) : State :=
  { s with
    halt := false
    fsr := ⟨0, 0, 0⟩
    lh := ⟨0, 0, 0, 0⟩
    tls := .closed
    tx := ⟨0, 0, 0, 0⟩
    rx := ⟨s.rx.buf, 0, 0, false⟩
    hi := HeaderInfo.zero
    it := Iter.zero
    its := Iter.zero }

/-! The frame of every command (60_exceptions.md R348) -/

/-- How a command ends: the state its pseudocode made, or the raise it reached, which undoes all of it (R344). -/
def State.finish (s : State) (opc : Byte) : Except Raise State → State
  | .ok t => t
  | .error r => s.raise opc r

/-- The frame of a command other than `SYS.*`: the halted check, then its pseudocode (R346, R348). -/
def runCommand (opc : Byte) (body : State → Except Raise State) (s : State) : Host.Outcome State Fault Refusal :=
  if s.halt then .next s.refuseHalted else .next (s.finish opc (body s))

/-- The frame of a `SYS.*` command, which executes while halted too (R346). -/
def runSystem (body : State → State) (s : State) : Host.Outcome State Fault Refusal := .next (body s)

/-- A `CW` that is no instruction (60_exceptions.md R347): HALTED comes first, else `ERR_ILLEGAL_CMD(CW)`. -/
def illegalCommand (cw : Word) (s : State) : Host.Outcome State Fault Refusal :=
  runCommand (opcodeField cw) (fun _ => .error ⟨.illegalCmd, cw.setWidth 64⟩) s

/-! The CRC -/

/-- One bit of the CRC (30_encoding.md R103). -/
def crcBit (c : Half) : Half := if c.getLsbD 0 then (c >>> 1) ^^^ 0xA6BC#16 else c >>> 1

/-- The CRC register after `k` bits. -/
def crcBits : Nat → Half → Half
  | 0, c => c
  | k + 1, c => crcBits k (crcBit c)

/-- One byte of the CRC (30_encoding.md R103). -/
def crcByte (c : Half) (b : Byte) : Half := crcBits 8 (c ^^^ b.setWidth 16)

/-- `CRC16(bytes)`, CRC-16/DNP (30_encoding.md R103). -/
def crc16 (bytes : List Byte) : Half := bytes.foldl crcByte 0x0000#16 ^^^ 0xFFFF#16

end Sys2Proof.Machine
end

