-- ==== Sys2Proof/Machine/Codec.lean ====
section
/-! DEFINITION. The byte codec: the 20 reads and the 20 writes (40_byte_codec.md). Each has a definition of its own,
one line over two shared operations. -/

namespace Sys2Proof.Machine

open Sys2Proof

/-- A read of a `w`-byte value (40_byte_codec.md R142): the bytes in the byte order, extended to 64 bits by `ext`. -/
def codecRead (w : Nat) (order : ByteOrder) (ext : Nat → DWord) (addr : Word) (s : State) : Except Raise State :=
  match s.memRead addr.toNat w with
  | .ok b => .ok (s.respond (ext (order.value b)))
  | .error r => .error r

/-- A write of the low `w` bytes of a value (40_byte_codec.md R143, R144, R147). -/
def codecWrite (w : Nat) (order : ByteOrder) (addr : Word) (value : Nat) (s : State) : Except Raise State :=
  match s.memWrite addr.toNat (order.bytes value w) with
  | .ok t => .ok (t.respond 0)
  | .error r => .error r

/-- `RD.U8` (40_byte_codec.md R160): 8 bits, unsigned, zero-extended. -/
def execRdU8 (addr : Word) (s : State) : Host.Outcome State Fault Refusal :=
  runCommand 0x00 (codecRead 1 .little zext64 addr) s

/-- `RD.I8` (40_byte_codec.md R161): 8 bits, two's complement, sign-extended. -/
def execRdI8 (addr : Word) (s : State) : Host.Outcome State Fault Refusal :=
  runCommand 0x01 (codecRead 1 .little (sext64 1) addr) s

/-- `RD.U16LE` (40_byte_codec.md R162): 16 bits, unsigned, zero-extended. -/
def execRdU16LE (addr : Word) (s : State) : Host.Outcome State Fault Refusal :=
  runCommand 0x02 (codecRead 2 .little zext64 addr) s

/-- `RD.U16BE` (40_byte_codec.md R163): 16 bits, unsigned, zero-extended. -/
def execRdU16BE (addr : Word) (s : State) : Host.Outcome State Fault Refusal :=
  runCommand 0x12 (codecRead 2 .big zext64 addr) s

/-- `RD.I16LE` (40_byte_codec.md R164): 16 bits, two's complement, sign-extended. -/
def execRdI16LE (addr : Word) (s : State) : Host.Outcome State Fault Refusal :=
  runCommand 0x03 (codecRead 2 .little (sext64 2) addr) s

/-- `RD.I16BE` (40_byte_codec.md R165): 16 bits, two's complement, sign-extended. -/
def execRdI16BE (addr : Word) (s : State) : Host.Outcome State Fault Refusal :=
  runCommand 0x13 (codecRead 2 .big (sext64 2) addr) s

/-- `RD.U32LE` (40_byte_codec.md R166): 32 bits, unsigned, zero-extended. -/
def execRdU32LE (addr : Word) (s : State) : Host.Outcome State Fault Refusal :=
  runCommand 0x04 (codecRead 4 .little zext64 addr) s

/-- `RD.U32BE` (40_byte_codec.md R167): 32 bits, unsigned, zero-extended. -/
def execRdU32BE (addr : Word) (s : State) : Host.Outcome State Fault Refusal :=
  runCommand 0x14 (codecRead 4 .big zext64 addr) s

/-- `RD.I32LE` (40_byte_codec.md R168): 32 bits, two's complement, sign-extended. -/
def execRdI32LE (addr : Word) (s : State) : Host.Outcome State Fault Refusal :=
  runCommand 0x05 (codecRead 4 .little (sext64 4) addr) s

/-- `RD.I32BE` (40_byte_codec.md R169): 32 bits, two's complement, sign-extended. -/
def execRdI32BE (addr : Word) (s : State) : Host.Outcome State Fault Refusal :=
  runCommand 0x15 (codecRead 4 .big (sext64 4) addr) s

/-- `RD.U48LE` (40_byte_codec.md R170): 48 bits, unsigned, zero-extended. -/
def execRdU48LE (addr : Word) (s : State) : Host.Outcome State Fault Refusal :=
  runCommand 0x06 (codecRead 6 .little zext64 addr) s

/-- `RD.U48BE` (40_byte_codec.md R171): 48 bits, unsigned, zero-extended. -/
def execRdU48BE (addr : Word) (s : State) : Host.Outcome State Fault Refusal :=
  runCommand 0x16 (codecRead 6 .big zext64 addr) s

/-- `RD.U64LE` (40_byte_codec.md R172): 64 bits, unsigned, zero-extended. -/
def execRdU64LE (addr : Word) (s : State) : Host.Outcome State Fault Refusal :=
  runCommand 0x08 (codecRead 8 .little zext64 addr) s

/-- `RD.U64BE` (40_byte_codec.md R173): 64 bits, unsigned, zero-extended. -/
def execRdU64BE (addr : Word) (s : State) : Host.Outcome State Fault Refusal :=
  runCommand 0x18 (codecRead 8 .big zext64 addr) s

/-- `RD.I64LE` (40_byte_codec.md R174): 64 bits, two's complement, sign-extended. -/
def execRdI64LE (addr : Word) (s : State) : Host.Outcome State Fault Refusal :=
  runCommand 0x09 (codecRead 8 .little (sext64 8) addr) s

/-- `RD.I64BE` (40_byte_codec.md R175): 64 bits, two's complement, sign-extended. -/
def execRdI64BE (addr : Word) (s : State) : Host.Outcome State Fault Refusal :=
  runCommand 0x19 (codecRead 8 .big (sext64 8) addr) s

/-- `RD.F32LE` (40_byte_codec.md R176): 32 bits, a bit pattern, zero-extended. -/
def execRdF32LE (addr : Word) (s : State) : Host.Outcome State Fault Refusal :=
  runCommand 0x0A (codecRead 4 .little zext64 addr) s

/-- `RD.F32BE` (40_byte_codec.md R177): 32 bits, a bit pattern, zero-extended. -/
def execRdF32BE (addr : Word) (s : State) : Host.Outcome State Fault Refusal :=
  runCommand 0x1A (codecRead 4 .big zext64 addr) s

/-- `RD.F64LE` (40_byte_codec.md R178): 64 bits, a bit pattern, zero-extended. -/
def execRdF64LE (addr : Word) (s : State) : Host.Outcome State Fault Refusal :=
  runCommand 0x0B (codecRead 8 .little zext64 addr) s

/-- `RD.F64BE` (40_byte_codec.md R179): 64 bits, a bit pattern, zero-extended. -/
def execRdF64BE (addr : Word) (s : State) : Host.Outcome State Fault Refusal :=
  runCommand 0x1B (codecRead 8 .big zext64 addr) s

/-- `WR.U8` (40_byte_codec.md R180): stores the low 8 bits of the value. -/
def execWrU8 (addr : Word) (value : DWord) (s : State) : Host.Outcome State Fault Refusal :=
  runCommand 0x20 (codecWrite 1 .little addr value.toNat) s

/-- `WR.I8` (40_byte_codec.md R181): stores the low 8 bits of the value. -/
def execWrI8 (addr : Word) (value : DWord) (s : State) : Host.Outcome State Fault Refusal :=
  runCommand 0x21 (codecWrite 1 .little addr value.toNat) s

/-- `WR.U16LE` (40_byte_codec.md R182): stores the low 16 bits of the value. -/
def execWrU16LE (addr : Word) (value : DWord) (s : State) : Host.Outcome State Fault Refusal :=
  runCommand 0x22 (codecWrite 2 .little addr value.toNat) s

/-- `WR.U16BE` (40_byte_codec.md R183): stores the low 16 bits of the value. -/
def execWrU16BE (addr : Word) (value : DWord) (s : State) : Host.Outcome State Fault Refusal :=
  runCommand 0x32 (codecWrite 2 .big addr value.toNat) s

/-- `WR.I16LE` (40_byte_codec.md R184): stores the low 16 bits of the value. -/
def execWrI16LE (addr : Word) (value : DWord) (s : State) : Host.Outcome State Fault Refusal :=
  runCommand 0x23 (codecWrite 2 .little addr value.toNat) s

/-- `WR.I16BE` (40_byte_codec.md R185): stores the low 16 bits of the value. -/
def execWrI16BE (addr : Word) (value : DWord) (s : State) : Host.Outcome State Fault Refusal :=
  runCommand 0x33 (codecWrite 2 .big addr value.toNat) s

/-- `WR.U32LE` (40_byte_codec.md R186): stores the low 32 bits of the value. -/
def execWrU32LE (addr : Word) (value : DWord) (s : State) : Host.Outcome State Fault Refusal :=
  runCommand 0x24 (codecWrite 4 .little addr value.toNat) s

/-- `WR.U32BE` (40_byte_codec.md R187): stores the low 32 bits of the value. -/
def execWrU32BE (addr : Word) (value : DWord) (s : State) : Host.Outcome State Fault Refusal :=
  runCommand 0x34 (codecWrite 4 .big addr value.toNat) s

/-- `WR.I32LE` (40_byte_codec.md R188): stores the low 32 bits of the value. -/
def execWrI32LE (addr : Word) (value : DWord) (s : State) : Host.Outcome State Fault Refusal :=
  runCommand 0x25 (codecWrite 4 .little addr value.toNat) s

/-- `WR.I32BE` (40_byte_codec.md R189): stores the low 32 bits of the value. -/
def execWrI32BE (addr : Word) (value : DWord) (s : State) : Host.Outcome State Fault Refusal :=
  runCommand 0x35 (codecWrite 4 .big addr value.toNat) s

/-- `WR.U48LE` (40_byte_codec.md R190): stores the value clamped to `2^48 - 1` (R153). -/
def execWrU48LE (addr : Word) (value : DWord) (s : State) : Host.Outcome State Fault Refusal :=
  runCommand 0x26 (codecWrite 6 .little addr (clamp48 value)) s

/-- `WR.U48BE` (40_byte_codec.md R191): stores the value clamped to `2^48 - 1` (R153). -/
def execWrU48BE (addr : Word) (value : DWord) (s : State) : Host.Outcome State Fault Refusal :=
  runCommand 0x36 (codecWrite 6 .big addr (clamp48 value)) s

/-- `WR.U64LE` (40_byte_codec.md R192): stores all 64 bits of the value. -/
def execWrU64LE (addr : Word) (value : DWord) (s : State) : Host.Outcome State Fault Refusal :=
  runCommand 0x28 (codecWrite 8 .little addr value.toNat) s

/-- `WR.U64BE` (40_byte_codec.md R193): stores all 64 bits of the value. -/
def execWrU64BE (addr : Word) (value : DWord) (s : State) : Host.Outcome State Fault Refusal :=
  runCommand 0x38 (codecWrite 8 .big addr value.toNat) s

/-- `WR.I64LE` (40_byte_codec.md R194): stores all 64 bits of the value. -/
def execWrI64LE (addr : Word) (value : DWord) (s : State) : Host.Outcome State Fault Refusal :=
  runCommand 0x29 (codecWrite 8 .little addr value.toNat) s

/-- `WR.I64BE` (40_byte_codec.md R195): stores all 64 bits of the value. -/
def execWrI64BE (addr : Word) (value : DWord) (s : State) : Host.Outcome State Fault Refusal :=
  runCommand 0x39 (codecWrite 8 .big addr value.toNat) s

/-- `WR.F32LE` (40_byte_codec.md R196): stores the low 32 bits of the value. -/
def execWrF32LE (addr : Word) (value : DWord) (s : State) : Host.Outcome State Fault Refusal :=
  runCommand 0x2A (codecWrite 4 .little addr value.toNat) s

/-- `WR.F32BE` (40_byte_codec.md R197): stores the low 32 bits of the value. -/
def execWrF32BE (addr : Word) (value : DWord) (s : State) : Host.Outcome State Fault Refusal :=
  runCommand 0x3A (codecWrite 4 .big addr value.toNat) s

/-- `WR.F64LE` (40_byte_codec.md R198): stores all 64 bits of the value. -/
def execWrF64LE (addr : Word) (value : DWord) (s : State) : Host.Outcome State Fault Refusal :=
  runCommand 0x2B (codecWrite 8 .little addr value.toNat) s

/-- `WR.F64BE` (40_byte_codec.md R199): stores all 64 bits of the value. -/
def execWrF64BE (addr : Word) (value : DWord) (s : State) : Host.Outcome State Fault Refusal :=
  runCommand 0x3B (codecWrite 8 .big addr value.toNat) s

end Sys2Proof.Machine
end

