-- ==== Sys2Proof/Machine/LinkHeader.lean ====
section
/-! DEFINITION. The link header unit (41_link_header.md R200 to R211). -/

namespace Sys2Proof.Machine

open Sys2Proof

/-- The answer of `LH.SET`, `LH.GET` and `LH.READ`: the packed header (41_link_header.md R202). -/
def State.respondHeader (s : State) : State := s.respond s.lh.pack

/-- `LH.SET` (41_link_header.md R204): every value of every field is accepted. -/
def execLhSet (len ctrl : Byte) (dest src : Half) (s : State) : Host.Outcome State Fault Refusal :=
  runCommand 0x40 (fun s => .ok { s with lh := ⟨len, ctrl, dest, src⟩ }.respondHeader) s

/-- `LH.GET` (41_link_header.md R205). -/
def execLhGet (s : State) : Host.Outcome State Fault Refusal :=
  runCommand 0x41 (fun s => .ok s.respondHeader) s

/-- The fields of the 10 bytes of a header (41_link_header.md R206); the start bytes and the CRC are not looked at. -/
def LinkHeader.parse (b : List Byte) : LinkHeader where
  len := b.getD 2 0
  ctrl := b.getD 3 0
  dest := BitVec.ofNat 16 (le [b.getD 4 0, b.getD 5 0])
  src := BitVec.ofNat 16 (le [b.getD 6 0, b.getD 7 0])

/-- The pseudocode of `LH.READ`. -/
def linkRead (addr : Word) (s : State) : Except Raise State :=
  match s.memRead addr.toNat 10 with
  | .ok b => .ok { s with lh := LinkHeader.parse b }.respondHeader
  | .error r => .error r

/-- `LH.READ` (41_link_header.md R206). -/
def execLhRead (addr : Word) (s : State) : Host.Outcome State Fault Refusal :=
  runCommand 0x42 (linkRead addr) s

/-- The first 8 bytes of the wire header (30_encoding.md R102). -/
def LinkHeader.wire (h : LinkHeader) : List Byte :=
  [0x05, 0x64, h.len, h.ctrl] ++ leBytes h.dest.toNat 2 ++ leBytes h.src.toNat 2

/-- The pseudocode of `LH.WRITE`: the 8 bytes, then their CRC, low byte first. -/
def linkWrite (addr : Word) (s : State) : Except Raise State :=
  let c := crc16 s.lh.wire
  match s.memWrite addr.toNat (s.lh.wire ++ leBytes c.toNat 2) with
  | .ok t => .ok (t.respond (c.setWidth 64))
  | .error r => .error r

/-- `LH.WRITE` (41_link_header.md R207). -/
def execLhWrite (addr : Word) (s : State) : Host.Outcome State Fault Refusal :=
  runCommand 0x43 (linkWrite addr) s

/-- The control byte of `LH.CTRL` (41_link_header.md R208): `func` masked with 0x4F, and the three flags. -/
def controlByte (dir fcb fcv : Bool) (func : Byte) : Byte :=
  (func &&& 0x4F#8) ||| ((BitVec.ofBool dir).setWidth 8 <<< 7) ||| ((BitVec.ofBool fcb).setWidth 8 <<< 5)
    ||| ((BitVec.ofBool fcv).setWidth 8 <<< 4)

/-- `LH.CTRL` (41_link_header.md R208): it reads and writes no register. -/
def execLhCtrl (dir fcb fcv : Bool) (func : Byte) (s : State) : Host.Outcome State Fault Refusal :=
  runCommand 0x44 (fun s => .ok (s.respond ((controlByte dir fcb fcv func).setWidth 64))) s

/-- A control byte with its `FCB` bit set to a value (41_link_header.md R209). -/
def setFcb (ctrl : Byte) (fcb : Bool) : Byte := (ctrl &&& 0xDF#8) ||| ((BitVec.ofBool fcb).setWidth 8 <<< 5)

/-- `LH.CHFCB` (41_link_header.md R209): the other bits and fields stay. -/
def execLhChfcb (fcb : Bool) (s : State) : Host.Outcome State Fault Refusal :=
  runCommand 0x45 (fun s =>
    .ok ({ s with lh := { s.lh with ctrl := setFcb s.lh.ctrl fcb } }.respond ((setFcb s.lh.ctrl fcb).setWidth 64))) s

/-- `LH.FUNC` (41_link_header.md R210): the function identity, `PRM` in bit 6 and the code in bits 3:0. -/
def execLhFunc (s : State) : Host.Outcome State Fault Refusal :=
  runCommand 0x46 (fun s => .ok (s.respond ((s.lh.ctrl &&& 0x4F#8).setWidth 64))) s

/-- The pseudocode of `CRC.CALC`. -/
def crcCalc (addr : Word) (len : DWord) (s : State) : Except Raise State :=
  match s.memRead addr.toNat len.toNat with
  | .ok b => .ok (s.respond ((crc16 b).setWidth 64))
  | .error r => .error r

/-- `CRC.CALC` (41_link_header.md R211). -/
def execCrcCalc (addr : Word) (len : DWord) (s : State) : Host.Outcome State Fault Refusal :=
  runCommand 0x47 (crcCalc addr len) s

end Sys2Proof.Machine
end

