-- ==== Sys2Proof/Machine/Objects.lean ====
section
/-! DEFINITION. The object unit: the object header parser and the iterator (43_object_iterator.md R280 to R297). -/

namespace Sys2Proof.Machine

open Sys2Proof

/-! The header -/

/-- What the range or count field of a header gives: start and count, or the refusal of `stop < start`
(30_encoding.md R106; 43_object_iterator.md R284). -/
def QualRow.range (row : QualRow) (f : List Byte) : Except Raise (Word × Nat) :=
  match row.htype with
  | .ranged =>
    let start := le (f.take row.rw)
    let stop := le ((f.drop row.rw).take row.rw)
    if stop < start then .error ⟨.badRange, BitVec.ofNat 64 (stop * 2 ^ 32 + start)⟩
    else .ok (BitVec.ofNat 32 start, stop - start + 1)
  | .all => .ok (0, 0)
  | .count => .ok (0, le f)
  | .countIndex => .ok (0, le f)

/-- The header at an address (43_object_iterator.md R284): first the three fixed bytes, then the qualifier, then the
range or count field. -/
def parseHeader (otype : ObjType) (osize : Half) (addr : Word) (s : State) : Except Raise HeaderInfo :=
  match s.memRead addr.toNat 3 with
  | .error r => .error r
  | .ok h =>
    let q := h.getD 2 0
    match qualRow q with
    | none => .error ⟨.badQualifier, q.setWidth 64⟩
    | some row =>
      match s.memRead (addr.toNat + 3) (row.hdrlen - 3) with
      | .error r => .error r
      | .ok f =>
        match row.range f with
        | .error r => .error r
        | .ok (start, count) =>
          .ok {
            group := h.getD 0 0
            var := h.getD 1 0
            qual := q
            htype := row.htype
            otype := otype
            osize := osize
            pfx := row.pfx
            count := count
            start := start
            hdrlen := BitVec.ofNat 4 row.hdrlen }

/-- The pseudocode of `OH.PARSE`. -/
def headerParse (otype : ObjType) (osize : Half) (addr : Word) (s : State) : Except Raise State :=
  match parseHeader otype osize addr s with
  | .ok h => .ok ({ s with hi := h }.respond h.pack)
  | .error r => .error r

/-- `OH.PARSE` (43_object_iterator.md R284). -/
def execOhParse (otype : ObjType) (osize : Half) (addr : Word) (s : State) : Host.Outcome State Fault Refusal :=
  runCommand 0x60 (headerParse otype osize addr) s

/-! The iterator -/

/-- `IsEnd` (43_object_iterator.md R281). -/
def Iter.atEnd (i : Iter) : Bool := decide (i.h.count ≤ i.n)

/-- `CalcIndex(H, p, n)` (43_object_iterator.md R283); only a COUNT_INDEX header reads `BUF`. -/
def calcIndex (s : State) (h : HeaderInfo) (p n : Nat) : Except Raise Word :=
  match h.htype with
  | .ranged => .ok (BitVec.ofNat 32 (h.start.toNat + n))
  | .all => .ok (BitVec.ofNat 32 n)
  | .count => .ok (BitVec.ofNat 32 n)
  | .countIndex =>
    match s.memRead p h.pfx.bytes with
    | .ok b => .ok (BitVec.ofNat 32 (le b))
    | .error r => .error r

/-- The iterator at object number `n` whose prefix is at `p`: the cursor and `SetObjectInfo` (43_object_iterator.md
R282). Addresses are naturals and are held in 64 bits (log 11). -/
def placeAt (s : State) (h : HeaderInfo) (hasData : Bool) (p n : Nat) : Except Raise Iter :=
  match calcIndex s h p n with
  | .ok index => .ok ⟨h, n, hasData, BitVec.ofNat 64 p, BitVec.ofNat 64 (p + h.pfx.bytes), index, h.start⟩
  | .error r => .error r

/-- The combinations `OI.INIT` refuses: an index prefix without data, or with bitfield objects
(43_object_iterator.md R285). -/
def initRefused (h : HeaderInfo) (hasdata : Bool) : Bool :=
  decide (h.pfx.bytes ≠ 0) && (!hasdata || decide (h.otype = .bitfield))

/-- The iterator `OI.INIT` makes over a header (43_object_iterator.md R285). -/
def startIter (s : State) (h : HeaderInfo) (hasdata : Bool) (dataaddr : Word) : Except Raise Iter :=
  let p := if hasdata then dataaddr.toNat else 0
  if 0 < h.count then placeAt s h hasdata p 0
  else .ok ⟨h, 0, hasdata, BitVec.ofNat 64 p, BitVec.ofNat 64 (p + h.pfx.bytes), 0, h.start⟩

/-- The pseudocode of `OI.INIT`. -/
def iterInit (hasdata : Bool) (dataaddr : Word) (s : State) : Except Raise State :=
  if initRefused s.hi hasdata then .error ⟨.argRange, s.hi.qual.setWidth 64⟩
  else
    match startIter s s.hi hasdata dataaddr with
    | .ok i => .ok ({ s with it := i }.respond (BitVec.ofNat 64 s.hi.count))
    | .error r => .error r

/-- `OI.INIT` (43_object_iterator.md R285). -/
def execOiInit (hasdata : Bool) (dataaddr : Word) (s : State) : Host.Outcome State Fault Refusal :=
  runCommand 0x61 (iterInit hasdata dataaddr) s

/-- `OI.HASDATA` (43_object_iterator.md R286). -/
def execOiHasdata (s : State) : Host.Outcome State Fault Refusal :=
  runCommand 0x62 (fun s => .ok (s.respond (flag64 s.it.hasData))) s

/-- The raise of an access past the end of an iterator (60_exceptions.md R341). -/
def pastEnd (i : Iter) : Raise := ⟨.iterOutOfBounds, BitVec.ofNat 64 i.n⟩

/-- The pseudocode of `OI.DEREF`: no data is looked at before the end. -/
def iterDeref (s : State) : Except Raise State :=
  if s.it.hasData = false then .error ⟨.iterNoData, BitVec.ofNat 64 s.it.n⟩
  else if s.it.atEnd then .error (pastEnd s.it)
  else .ok (s.respond s.it.pos)

/-- `OI.DEREF` (43_object_iterator.md R287): an address; nothing is read from `BUF`. -/
def execOiDeref (s : State) : Host.Outcome State Fault Refusal := runCommand 0x63 iterDeref s

/-- The pseudocode of `OI.INFO`. -/
def iterInfo (s : State) : Except Raise State :=
  if s.it.atEnd then .error (pastEnd s.it) else .ok (s.respond (s.it.start ++ s.it.index))

/-- `OI.INFO` (43_object_iterator.md R288): index in bits 31:0, start in bits 63:32. -/
def execOiInfo (s : State) : Host.Outcome State Fault Refusal := runCommand 0x64 iterInfo s

/-- The address of the next object's prefix (43_object_iterator.md R289): the cursor moves for FIXED objects with data
only. -/
def Iter.nextPfxPos (i : Iter) : Nat :=
  if i.h.otype = .fixed ∧ i.hasData = true then i.pfxPos.toNat + i.h.pfx.bytes + i.h.osize.toNat else i.pfxPos.toNat

/-- The advance of an iterator (43_object_iterator.md R289): the step that reaches the end changes `N` alone. -/
def advance (s : State) (i : Iter) : Except Raise Iter :=
  if i.atEnd then .error (pastEnd i)
  else if i.n + 1 < i.h.count then placeAt s i.h i.hasData i.nextPfxPos (i.n + 1)
  else .ok { i with n := i.n + 1 }

/-- The pseudocode of `OI.INC`. -/
def iterInc (s : State) : Except Raise State :=
  match advance s s.it with
  | .ok i => .ok ({ s with it := i }.respond (flag64 i.atEnd))
  | .error r => .error r

/-- `OI.INC` (43_object_iterator.md R289). -/
def execOiInc (s : State) : Host.Outcome State Fault Refusal := runCommand 0x65 iterInc s

/-- The pseudocode of `OI.PINC`: the iterator before the advance goes to the snapshot. -/
def iterPostInc (s : State) : Except Raise State :=
  match advance s s.it with
  | .ok i => .ok ({ s with it := i, its := s.it }.respond (flag64 i.atEnd))
  | .error r => .error r

/-- `OI.PINC` (43_object_iterator.md R290). -/
def execOiPinc (s : State) : Host.Outcome State Fault Refusal := runCommand 0x66 iterPostInc s

/-- `OI.COUNT` (43_object_iterator.md R291): the count of the header `OI.INIT` copied. -/
def execOiCount (s : State) : Host.Outcome State Fault Refusal :=
  runCommand 0x67 (fun s => .ok (s.respond (BitVec.ofNat 64 s.it.h.count))) s

/-- `OI.ISEND` (43_object_iterator.md R292). -/
def execOiIsend (s : State) : Host.Outcome State Fault Refusal :=
  runCommand 0x68 (fun s => .ok (s.respond (flag64 s.it.atEnd))) s

/-- `OI.SWAP` (43_object_iterator.md R293): every field of both. -/
def execOiSwap (s : State) : Host.Outcome State Fault Refusal :=
  runCommand 0x69 (fun s => .ok ({ s with it := s.its, its := s.it }.respond 0)) s

end Sys2Proof.Machine
end

