-- ==== Sys2Proof/Machine/System.lean ====
section
/-! DEFINITION. The system unit (44_system.md R330 to R334): the three instructions that execute while halted. -/

namespace Sys2Proof.Machine

open Sys2Proof

/-- `SYS.STAT` (44_system.md R332). -/
def execSysStat (s : State) : Host.Outcome State Fault Refusal := runSystem (fun s => s.respond s.statusWord) s

/-- `SYS.RESET` (44_system.md R333): no event in any state (70_reset_and_hazards.md R382). -/
def execSysReset (s : State) : Host.Outcome State Fault Refusal := runSystem (fun s => s.resetRegisters.respond 0) s

/-- `SYS.FINFO` (44_system.md R334). -/
def execSysFinfo (s : State) : Host.Outcome State Fault Refusal := runSystem (fun s => s.respond s.fsr.finfo) s

end Sys2Proof.Machine
end

