-- ==== Sys2Proof/Machine/Transport.lean ====
section
/-! DEFINITION. The transport unit (42_transport.md R230 to R249). -/

namespace Sys2Proof.Machine

open Sys2Proof

/-- `respond_tl(0)`: the (state, event) pair is a no-op (42_transport.md R232, R233). -/
def State.tlIgnored (s : State) : State := s.respond (tlResult s.tls false)

/-- `respond_tl(1)` with no event: the pair is a row of the state table (42_transport.md R231, R233). -/
def State.tlHandled (s : State) : State := s.respond (tlResult s.tls true)

/-- `respond_tl(1)` of a command that emitted an event; the event is seen with the writes done (R233, R234). -/
def State.tlEmit (s : State) (e : Event) : State := s.respondWith (tlResult s.tls true) e

/-- `NextSeq(s) = (s + 1) mod 64` (42_transport.md R235). -/
def nextSeq (q : Seq) : Seq := q + 1

/-- `ResetReceiver` (42_transport.md R242): `RX_SEQ` and the bytes of `RX_BUF` stay. -/
def Receiver.stop (r : Receiver) : Receiver := { r with active := false, len := 0 }

/-! Layer up and down -/

/-- The pseudocode of `TL.UP`. -/
def layerUp (s : State) : State :=
  match s.tls with
  | .closed => { s with tls := .ready }.tlEmit .upperLayerUp
  | .ready => s.tlIgnored
  | .sending => s.tlIgnored

/-- `TL.UP` (42_transport.md R248). -/
def execTlUp (s : State) : Host.Outcome State Fault Refusal := runCommand 0x50 (fun s => .ok (layerUp s)) s

/-- The action of `TL.DOWN` in Ready and in Sending: both reset the receiver (90_conflicts.md C3). -/
def thisLayerDown (s : State) : State := { s with rx := s.rx.stop, tls := .closed }.tlEmit .upperLayerDown

/-- The pseudocode of `TL.DOWN`. -/
def layerDown (s : State) : State :=
  match s.tls with
  | .closed => s.tlIgnored
  | .ready => thisLayerDown s
  | .sending => thisLayerDown s

/-- `TL.DOWN` (42_transport.md R249). -/
def execTlDown (s : State) : Host.Outcome State Fault Refusal := runCommand 0x51 (fun s => .ok (layerDown s)) s

/-! Transmit -/

/-- The size of the segment that starts after `sent` bytes (42_transport.md R237). -/
def segmentSize (s : State) (len sent : Nat) : Nat := min s.cfg.segPayload (len - sent)

/-- `EmitSegment(base, len, sent, seq)` (42_transport.md R237): the TPDU, its payload read from `BUF` now. -/
def segment (s : State) (base : Word) (len sent : Nat) (seq : Seq) : Except Raise (List Byte) :=
  let n := segmentSize s len sent
  match s.memRead (base.toNat + sent) n with
  | .ok p => .ok (segmentHeader (decide (sent + n = len)) (decide (sent = 0)) seq :: p)
  | .error r => .error r

/-- An accepted `TL.SEND`: the range check, the transmitter registers, the first segment (42_transport.md R236). -/
def acceptSend (addr : Word) (len : Nat) (s : State) : Except Raise State :=
  if s.cfg.bufSize < addr.toNat + len then .error (bufRange addr.toNat)
  else
    match segment s addr len 0 s.tx.seq with
    | .ok b =>
      .ok ({ s with tx := { s.tx with base := addr, len := len, sent := 0 }, tls := .sending }.tlEmit (.lowerSend b))
    | .error r => .error r

/-- The pseudocode of `TL.SEND`: the length is checked before the state is looked at (42_transport.md R236). -/
def send (addr : Word) (len : DWord) (s : State) : Except Raise State :=
  if len = 0 ∨ s.cfg.fragSize < len.toNat then .error ⟨.argRange, len⟩
  else
    match s.tls with
    | .closed => .ok s.tlIgnored
    | .ready => acceptSend addr len.toNat s
    | .sending => .ok s.tlIgnored

/-- `TL.SEND` (42_transport.md R236). -/
def execTlSend (addr : Word) (len : DWord) (s : State) : Host.Outcome State Fault Refusal :=
  runCommand 0x52 (send addr len) s

/-- A completion with success in Sending (42_transport.md R238): the bytes are counted, the sequence number advances,
then the next segment goes out or the send ends. -/
def segmentDone (s : State) : Except Raise State :=
  let sent := s.tx.sent + segmentSize s s.tx.len s.tx.sent
  let seq := nextSeq s.tx.seq
  let t := { s with tx := { s.tx with sent := sent, seq := seq } }
  if sent < s.tx.len then
    match segment s s.tx.base s.tx.len sent seq with
    | .ok b => .ok (t.tlEmit (.lowerSend b))
    | .error r => .error r
  else .ok ({ t with tls := .ready }.tlEmit .upperSendSuccess)

/-- The pseudocode of `TL.SUCC`. -/
def sendSuccess (s : State) : Except Raise State :=
  match s.tls with
  | .closed => .ok s.tlIgnored
  | .ready => .ok s.tlIgnored
  | .sending => segmentDone s

/-- `TL.SUCC` (42_transport.md R238). -/
def execTlSucc (s : State) : Host.Outcome State Fault Refusal := runCommand 0x54 sendSuccess s

/-- The pseudocode of `TL.FAIL`. -/
def sendFailure (s : State) : State :=
  match s.tls with
  | .closed => s.tlIgnored
  | .ready => s.tlIgnored
  | .sending => { s with tls := .ready }.tlEmit .upperSendFailure

/-- `TL.FAIL` (42_transport.md R239). -/
def execTlFail (s : State) : Host.Outcome State Fault Refusal := runCommand 0x55 (fun s => .ok (sendFailure s)) s

/-! Receive -/

/-- The part of `Reassemble` that is reached with a place `base` for the payload: overflow, append, delivery
(42_transport.md R241). -/
def appendSegment (s : State) (fin : Bool) (seq : Seq) (base : Nat) (p : List Byte) : State :=
  let n := base + p.length
  if s.cfg.fragSize < n then { s with rx := s.rx.stop }.tlHandled
  else
    let rx : Receiver := ⟨s.rx.buf.writeBytes base p, n, seq, true⟩
    if fin then { s with rx := rx.stop }.tlEmit (.upperReceive (rx.buf.readBytes 0 n))
    else { s with rx := rx }.tlHandled

/-- `Reassemble(b)` for a TPDU given as header byte and payload (42_transport.md R241). -/
def reassemble (hdr : Byte) (p : List Byte) (s : State) : State :=
  let fin := hdr.getLsbD 7
  let fir := hdr.getLsbD 6
  let seq := hdr.extractLsb' 0 6
  if fir then appendSegment s fin seq 0 p
  else if s.rx.active = false then s.tlHandled
  else if seq ≠ nextSeq s.rx.seq then { s with rx := s.rx.stop }.tlHandled
  else appendSegment s fin seq s.rx.len p

/-- `TL.RECV` outside Closed (42_transport.md R240): a TPDU with no header or no payload is ignored. -/
def receiveTpdu (addr : Word) (len : DWord) (s : State) : Except Raise State :=
  if len.toNat < 2 then .ok s.tlHandled
  else
    match s.memRead addr.toNat len.toNat with
    | .ok b => .ok (reassemble (b.headD 0) b.tail s)
    | .error r => .error r

/-- The pseudocode of `TL.RECV`. -/
def receive (addr : Word) (len : DWord) (s : State) : Except Raise State :=
  match s.tls with
  | .closed => .ok s.tlIgnored
  | .ready => receiveTpdu addr len s
  | .sending => receiveTpdu addr len s

/-- `TL.RECV` (42_transport.md R240). -/
def execTlRecv (addr : Word) (len : DWord) (s : State) : Host.Outcome State Fault Refusal :=
  runCommand 0x53 (receive addr len) s

end Sys2Proof.Machine
end

