-- ==== Sys2Proof/Machine/Dispatch.lean ====
section
/-! DEFINITION. The dispatch: one arm per constructor of Instr, each a direct call of that instruction's meaning. -/

namespace Sys2Proof.Machine

open Sys2Proof

def exec (i : Instr) (s : State) : Host.Outcome State Fault Refusal :=
  match i with
  -- Byte codec, reads
  | .rdU8 addr => Sys2Proof.Machine.execRdU8 addr s
  | .rdI8 addr => Sys2Proof.Machine.execRdI8 addr s
  | .rdU16LE addr => Sys2Proof.Machine.execRdU16LE addr s
  | .rdU16BE addr => Sys2Proof.Machine.execRdU16BE addr s
  | .rdI16LE addr => Sys2Proof.Machine.execRdI16LE addr s
  | .rdI16BE addr => Sys2Proof.Machine.execRdI16BE addr s
  | .rdU32LE addr => Sys2Proof.Machine.execRdU32LE addr s
  | .rdU32BE addr => Sys2Proof.Machine.execRdU32BE addr s
  | .rdI32LE addr => Sys2Proof.Machine.execRdI32LE addr s
  | .rdI32BE addr => Sys2Proof.Machine.execRdI32BE addr s
  | .rdU48LE addr => Sys2Proof.Machine.execRdU48LE addr s
  | .rdU48BE addr => Sys2Proof.Machine.execRdU48BE addr s
  | .rdU64LE addr => Sys2Proof.Machine.execRdU64LE addr s
  | .rdU64BE addr => Sys2Proof.Machine.execRdU64BE addr s
  | .rdI64LE addr => Sys2Proof.Machine.execRdI64LE addr s
  | .rdI64BE addr => Sys2Proof.Machine.execRdI64BE addr s
  | .rdF32LE addr => Sys2Proof.Machine.execRdF32LE addr s
  | .rdF32BE addr => Sys2Proof.Machine.execRdF32BE addr s
  | .rdF64LE addr => Sys2Proof.Machine.execRdF64LE addr s
  | .rdF64BE addr => Sys2Proof.Machine.execRdF64BE addr s
  -- Byte codec, writes
  | .wrU8 addr value => Sys2Proof.Machine.execWrU8 addr value s
  | .wrI8 addr value => Sys2Proof.Machine.execWrI8 addr value s
  | .wrU16LE addr value => Sys2Proof.Machine.execWrU16LE addr value s
  | .wrU16BE addr value => Sys2Proof.Machine.execWrU16BE addr value s
  | .wrI16LE addr value => Sys2Proof.Machine.execWrI16LE addr value s
  | .wrI16BE addr value => Sys2Proof.Machine.execWrI16BE addr value s
  | .wrU32LE addr value => Sys2Proof.Machine.execWrU32LE addr value s
  | .wrU32BE addr value => Sys2Proof.Machine.execWrU32BE addr value s
  | .wrI32LE addr value => Sys2Proof.Machine.execWrI32LE addr value s
  | .wrI32BE addr value => Sys2Proof.Machine.execWrI32BE addr value s
  | .wrU48LE addr value => Sys2Proof.Machine.execWrU48LE addr value s
  | .wrU48BE addr value => Sys2Proof.Machine.execWrU48BE addr value s
  | .wrU64LE addr value => Sys2Proof.Machine.execWrU64LE addr value s
  | .wrU64BE addr value => Sys2Proof.Machine.execWrU64BE addr value s
  | .wrI64LE addr value => Sys2Proof.Machine.execWrI64LE addr value s
  | .wrI64BE addr value => Sys2Proof.Machine.execWrI64BE addr value s
  | .wrF32LE addr value => Sys2Proof.Machine.execWrF32LE addr value s
  | .wrF32BE addr value => Sys2Proof.Machine.execWrF32BE addr value s
  | .wrF64LE addr value => Sys2Proof.Machine.execWrF64LE addr value s
  | .wrF64BE addr value => Sys2Proof.Machine.execWrF64BE addr value s
  -- Link header unit
  | .lhSet len ctrl dest src => Sys2Proof.Machine.execLhSet len ctrl dest src s
  | .lhGet => Sys2Proof.Machine.execLhGet s
  | .lhRead addr => Sys2Proof.Machine.execLhRead addr s
  | .lhWrite addr => Sys2Proof.Machine.execLhWrite addr s
  | .lhCtrl dir fcb fcv func => Sys2Proof.Machine.execLhCtrl dir fcb fcv func s
  | .lhChfcb fcb => Sys2Proof.Machine.execLhChfcb fcb s
  | .lhFunc => Sys2Proof.Machine.execLhFunc s
  | .crcCalc addr len => Sys2Proof.Machine.execCrcCalc addr len s
  -- Transport unit
  | .tlUp => Sys2Proof.Machine.execTlUp s
  | .tlDown => Sys2Proof.Machine.execTlDown s
  | .tlSend addr len => Sys2Proof.Machine.execTlSend addr len s
  | .tlRecv addr len => Sys2Proof.Machine.execTlRecv addr len s
  | .tlSucc => Sys2Proof.Machine.execTlSucc s
  | .tlFail => Sys2Proof.Machine.execTlFail s
  -- Object unit
  | .ohParse otype osize addr => Sys2Proof.Machine.execOhParse otype osize addr s
  | .oiInit hasdata dataaddr => Sys2Proof.Machine.execOiInit hasdata dataaddr s
  | .oiHasdata => Sys2Proof.Machine.execOiHasdata s
  | .oiDeref => Sys2Proof.Machine.execOiDeref s
  | .oiInfo => Sys2Proof.Machine.execOiInfo s
  | .oiInc => Sys2Proof.Machine.execOiInc s
  | .oiPinc => Sys2Proof.Machine.execOiPinc s
  | .oiCount => Sys2Proof.Machine.execOiCount s
  | .oiIsend => Sys2Proof.Machine.execOiIsend s
  | .oiSwap => Sys2Proof.Machine.execOiSwap s
  -- System unit
  | .sysStat => Sys2Proof.Machine.execSysStat s
  | .sysReset => Sys2Proof.Machine.execSysReset s
  | .sysFinfo => Sys2Proof.Machine.execSysFinfo s

end Sys2Proof.Machine
end

