-- ==== Sys2Proof/Machine/Port.lean ====
section
/-! DEFINITION. The DCB's boundary (00_scope.md R6, R8): what the host does there, one action a step. -/

namespace Sys2Proof.Machine

open Sys2Proof

/-- One command frame (60_exceptions.md R348): decoded, then run; a word that is no instruction is an illegal
command. -/
def runFrame (f : Frame) (s : State) : Host.Outcome State Fault Refusal :=
  match decode f with
  | .ok i => exec i s
  | .error _ => illegalCommand f.cw s

/-- A host store into `BUF` between two commands (00_scope.md R8; 20_memory.md R72): the bytes and nothing else. It
works while halted too: `BUF` is the host's memory as well. A store outside `BUF` has no meaning (log 6). -/
def hostStore (addr : Nat) (bytes : List Byte) (s : State) : Host.Outcome State Fault Refusal :=
  match s.memWrite addr bytes with
  | .ok t => .next t
  | .error _ => .fault .hostStoreRange

/-- One action of the host. -/
def runAct : HostAct → State → Host.Outcome State Fault Refusal
  | .command f, s => runFrame f s
  | .store addr bytes, s => hostStore addr bytes s

/-- Nothing on the response port: the response of a step is its output and is gone with the next one (10_state.md R20,
R35). -/
def State.quiet (s : State) : State := { s with rsp := none }

/-- The next pending action of the host, taken off the list, with nothing on the response port; with none pending the
DCB is idle and keeps all its state (60_exceptions.md R358; 70_reset_and_hazards.md R391; log 8). -/
def runNext (s : State) : Host.Outcome State Fault Refusal :=
  match s.inp with
  | [] => .next s.quiet
  | a :: rest => runAct a { s with inp := rest, rsp := none }

/-- A command presented to the DCB before everything else that is pending. -/
def State.present (s : State) (f : Frame) : State := { s with inp := .command f :: s.inp }

end Sys2Proof.Machine
end

