-- ==== Sys2Proof/Machine/Step.lean ====
section
/-! DEFINITION. One step of the machine (00_scope.md R8), and how a word of the opcode table is presented to it. -/

namespace Sys2Proof.Machine

open Sys2Proof

/-- One step: the host's next pending action (Machine/Port.lean). -/
def step (s : State) : Host.Outcome State Fault Refusal := runNext s

/-- The state in which the very next step runs the command whose bits are `w` (log 9). The DCB fetches nothing (R21):
a command comes to it from the host, so this stands for the host issuing it (log 1). -/
def State.withFetchWord (s : State) (nbits w : Nat) : State := s.present (tableFrame nbits w)

end Sys2Proof.Machine
end

