-- ==== Sys2Proof/Safety.lean ====
section
/-! DEFINITION. What counts as a legal state and as a clean run, in the terms the statements use. -/

namespace Sys2Proof.Machine

open Sys2Proof

/-- No contract violation since reset (10_state.md R24). -/
def State.clean (s : State) : Prop := s.fsr.fcode = 0x00

/-- The two memories are in canonical form and list no byte outside `BUF` and `RX_BUF` (10_state.md R30, R34). -/
structure State.MemoriesLegal (s : State) : Prop where
  buf_wf : s.buf.wf = true
  buf_below : s.buf.below s.cfg.bufSize = true
  rxBuf_wf : s.rx.buf.wf = true
  rxBuf_below : s.rx.buf.below s.cfg.fragSize = true

/-- A response a command can give (30_encoding.md R91; 60_exceptions.md R341, R351). -/
structure Response.Legal (r : Response) : Prop where
  /-- The values 0x09 to 0xFF of `ST` are never produced. -/
  status_le : r.st.toNat ≤ 8
  /-- `RES` is 0 and `EV` is empty whenever `ST` is not 0x00. -/
  error_silent : r.st ≠ 0x00 → r.res = 0 ∧ r.ev = []
  /-- No command emits more than one event. -/
  one_event : r.ev.length ≤ 1

/-- The fault registers and the response (10_state.md R23, R24; 60_exceptions.md R341, R343). -/
structure State.FaultsLegal (s : State) : Prop where
  /-- Only the codes 0x00 to 0x07 are ever latched: HALTED never is. -/
  fcode_le : s.fsr.fcode.toNat ≤ 7
  /-- While nothing is latched the other two fields are 0. -/
  empty_latch : s.fsr.fcode = 0x00 → s.fsr.fopc = 0x00 ∧ s.fsr.finfo = 0
  /-- A halted DCB has an error in its latch. -/
  halted_latched : s.halt = true → s.fsr.fcode ≠ 0x00
  /-- A response that this step answers is a legal one. -/
  response : ∀ r, s.rsp = some r → r.Legal

/-- The transmitter registers (10_state.md R28, R29). -/
structure State.TransmitterLegal (s : State) : Prop where
  len_le : s.tx.len ≤ s.cfg.fragSize
  sent_le : s.tx.sent ≤ s.tx.len
  /-- While Sending an unfinished APDU is held, and it lies inside `BUF`. -/
  sending : s.tls = .sending → 1 ≤ s.tx.len ∧ s.tx.sent < s.tx.len ∧ s.tx.base.toNat + s.tx.len ≤ s.cfg.bufSize

/-- The receiver registers (10_state.md R30). -/
structure State.ReceiverLegal (s : State) : Prop where
  idle : s.rx.active = false → s.rx.len = 0
  busy : s.rx.active = true → 1 ≤ s.rx.len ∧ s.rx.len ≤ s.cfg.fragSize

/-- The count and the start that a header type allows (10_state.md R31; 30_encoding.md R106). -/
def HeaderInfo.countLegal (h : HeaderInfo) : Prop :=
  match h.htype with
  | .ranged => 1 ≤ h.count ∧ h.start.toNat + h.count ≤ 2 ^ 32
  | .all => h.count = 0 ∧ h.start = 0
  | .count => h.count < 2 ^ 32 ∧ h.start = 0
  | .countIndex => h.count < 2 ^ 32 ∧ h.start = 0

/-- A header that some parse can give: its derived fields are those its qualifier selects (30_encoding.md R106). -/
def HeaderInfo.parsed (h : HeaderInfo) : Prop :=
  h.countLegal ∧ ∃ row, qualRow h.qual = some row ∧ h.htype = row.htype ∧ h.pfx = row.pfx ∧
    h.hdrlen = BitVec.ofNat 4 row.hdrlen

/-- What `HI`, `IT.H` and `ITS.H` can hold: the reset value, which is the parse of no header, or a parsed header
(10_state.md R31). -/
def HeaderInfo.legal (h : HeaderInfo) : Prop := h = HeaderInfo.zero ∨ h.parsed

/-- What `IT` and `ITS` can hold (10_state.md R32; 43_object_iterator.md R281, R282, R283, R285, R296). -/
structure Iter.Legal (i : Iter) : Prop where
  header : i.h.legal
  n_le : i.n ≤ i.h.count
  start_eq : i.start = i.h.start
  /-- The payload follows the prefix, and the sum has not wrapped. -/
  pos_eq : i.pos.toNat = i.pfxPos.toNat + i.h.pfx.bytes
  /-- No advance can wrap the cursor: an object takes at most 4 + 65535 bytes. -/
  pfxPos_le : i.pfxPos.toNat ≤ 2 ^ 32 + i.n * 65539
  /-- Without data there is no prefix and the cursor never leaves 0. -/
  noData : i.hasData = false → i.pfxPos = 0 ∧ i.h.pfx = .none
  bitfield : i.h.otype = .bitfield → i.h.pfx = .none
  ranged_index : i.h.htype = .ranged → i.n < i.h.count → i.index.toNat = i.h.start.toNat + i.n
  count_index : i.h.htype = .count → i.n < i.h.count → i.index.toNat = i.n

/-- The header register, the iterator and its snapshot. -/
structure State.ObjectsLegal (s : State) : Prop where
  hi : s.hi.legal
  it : s.it.Legal
  its : s.its.Legal

/-- A legal state: everything the spec says of every reachable state. -/
structure State.Legal (s : State) : Prop where
  cfg : s.cfg.legal = true
  memories : s.MemoriesLegal
  faults : s.FaultsLegal
  transmitter : s.TransmitterLegal
  receiver : s.ReceiverLegal
  objects : s.ObjectsLegal

end Sys2Proof.Machine
end

