-- ==== Sys2Proof/Certificates/Slice0/Obligations.lean ====
section
/-! DEFINITION. The statements for the provers. The words they are written in (namespace `Claims`) are read from the
rules of spec/ and not from the model's operations: sums of bytes, bits of values, tables. A statement about one
instruction gives its whole next state, so it is its frame too: every field that is not written is the old one. -/

namespace Sys2Proof.Claims

open Sys2Proof Sys2Proof.Machine

/-! Responses and errors -/

/-- The instruction completes with OK and the result `res`; nothing of the state changes but the response. -/
def Answers (i : Instr) (s : State) (res : DWord) : Prop := exec i s = .next { s with rsp := some ⟨0x00, res, []⟩ }

/-- The state after `raise E(info)` (60_exceptions.md R343). -/
def raised (s : State) (code opc : Byte) (info : DWord) : State :=
  { s with
    fsr := if s.fsr.fcode = 0x00 then ⟨code, opc, info⟩ else s.fsr
    halt := if code = 0x07 then true else s.halt
    rsp := some ⟨code, 0, []⟩ }

/-- The instruction raises the error of this code with this info; `FOPC` is bits 31:24 of its command word. -/
def Raises (i : Instr) (s : State) (code : Byte) (info : DWord) : Prop :=
  exec i s = .next (raised s code ((encode i).cw.extractLsb' 24 8) info)

/-- A command word that means the instruction whatever `OPA` and `OPB` are. -/
def PlainWord (cw : Word) (i : Instr) : Prop := ∀ opa opb, decode ⟨cw, opa, opb⟩ = .ok i

/-! Numbers in memory (00_scope.md R13; 40_byte_codec.md R144, R145) -/

/-- The number that `w` bytes from `a` on spell, least significant byte first. -/
def littleEndian (m : Memory) (a w : Nat) : Nat := ∑ k ∈ Finset.range w, (m.read (a + k)).toNat * 256 ^ k

/-- The number that `w` bytes from `a` on spell, most significant byte first. -/
def bigEndian (m : Memory) (a w : Nat) : Nat := ∑ k ∈ Finset.range w, (m.read (a + k)).toNat * 256 ^ (w - 1 - k)

/-- The 64-bit pattern of the signed number whose `8w`-bit pattern is `u` (R145). -/
def twosComplement (w u : Nat) : Nat := if u < 2 ^ (8 * w - 1) then u else u + 2 ^ 64 - 2 ^ (8 * w)

/-- The signed number that `w` bytes from `a` on spell, least significant byte first. -/
def signedLittle (m : Memory) (a w : Nat) : Nat := twosComplement w (littleEndian m a w)

/-- The signed number that `w` bytes from `a` on spell, most significant byte first. -/
def signedBig (m : Memory) (a w : Nat) : Nat := twosComplement w (bigEndian m a w)

/-! The byte codec -/

/-- A read of `w` bytes: its command word (`OPB` is ignored), its answer inside `BUF`, its error outside. -/
def ReadRule (cw : Word) (i : Word → Instr) (w : Nat) (value : Memory → Nat → Nat → Nat) : Prop :=
  (∀ addr opb, decode ⟨cw, addr, opb⟩ = .ok (i addr)) ∧
  ∀ addr s, s.halt = false →
    (addr.toNat + w ≤ s.cfg.bufSize → Answers (i addr) s (BitVec.ofNat 64 (value s.buf addr.toNat w))) ∧
    (s.cfg.bufSize < addr.toNat + w → Raises (i addr) s 0x07 (addr.setWidth 64))

/-- The instruction completes with OK and the result `res`, and stores `w` bytes from `a` on: every other byte of
`BUF` reads as before, and nothing else of the state changes but the response. -/
def Stores (i : Instr) (s : State) (a w : Nat) (byte : Nat → Byte) (res : DWord) : Prop :=
  ∃ m, exec i s = .next { s with buf := m, rsp := some ⟨0x00, res, []⟩ } ∧
    (∀ k < w, m.read (a + k) = byte k) ∧ ∀ b, b < a ∨ a + w ≤ b → m.read b = s.buf.read b

/-- A write of `w` bytes: its command word, its store inside `BUF`, its error outside. -/
def WriteRule (cw : Word) (i : Word → DWord → Instr) (w : Nat) (byte : DWord → Nat → Byte) : Prop :=
  (∀ addr value, decode ⟨cw, addr, value⟩ = .ok (i addr value)) ∧
  ∀ addr value s, s.halt = false →
    (addr.toNat + w ≤ s.cfg.bufSize → Stores (i addr value) s addr.toNat w (byte value) 0) ∧
    (s.cfg.bufSize < addr.toNat + w → Raises (i addr value) s 0x07 (addr.setWidth 64))

/-- Byte `k` of a little-endian value: bits `8k+7` to `8k` (R144). -/
def lowFirst (value : DWord) (k : Nat) : Byte := value.extractLsb' (8 * k) 8

/-- Byte `k` of a big-endian `w`-byte value (R144). -/
def highFirst (w : Nat) (value : DWord) (k : Nat) : Byte := value.extractLsb' (8 * (w - 1 - k)) 8

/-- The 48-bit clamp (R153): six bytes FF when a bit above bit 47 is 1. -/
def clamped (byte : DWord → Nat → Byte) (value : DWord) (k : Nat) : Byte :=
  if 2 ^ 48 ≤ value.toNat then 0xFF else byte value k

/-- A codec type: its read, its write, which values are in range (R147; R150 for the 48-bit type) and what an
out-of-range value reads back as (R150). -/
structure CodecType where
  rd : Word → Instr
  wr : Word → DWord → Instr
  width : Nat
  inRange : DWord → Prop
  readBack : DWord → DWord

/-- An unsigned type or a float type of `w` bytes. -/
def plainType (rd : Word → Instr) (wr : Word → DWord → Instr) (w : Nat) : CodecType where
  rd := rd
  wr := wr
  width := w
  inRange := fun v => v.toNat < 2 ^ (8 * w)
  readBack := fun v => BitVec.ofNat 64 (v.toNat % 2 ^ (8 * w))

/-- A signed type of `w` bytes. -/
def signedType (rd : Word → Instr) (wr : Word → DWord → Instr) (w : Nat) : CodecType where
  rd := rd
  wr := wr
  width := w
  inRange := fun v => -(2 ^ (8 * w - 1)) ≤ v.toInt ∧ v.toInt < 2 ^ (8 * w - 1)
  readBack := fun v => BitVec.ofNat 64 (twosComplement w (v.toNat % 2 ^ (8 * w)))

/-- A 48-bit type. -/
def clampedType (rd : Word → Instr) (wr : Word → DWord → Instr) : CodecType where
  rd := rd
  wr := wr
  width := 6
  inRange := fun v => v.toNat < 2 ^ 48
  readBack := fun _ => BitVec.ofNat 64 (2 ^ 48 - 1)

/-- The 20 codec types (30_encoding.md R94). -/
def codecTypes : List CodecType :=
  [plainType .rdU8 .wrU8 1, signedType .rdI8 .wrI8 1,
   plainType .rdU16LE .wrU16LE 2, plainType .rdU16BE .wrU16BE 2,
   signedType .rdI16LE .wrI16LE 2, signedType .rdI16BE .wrI16BE 2,
   plainType .rdU32LE .wrU32LE 4, plainType .rdU32BE .wrU32BE 4,
   signedType .rdI32LE .wrI32LE 4, signedType .rdI32BE .wrI32BE 4,
   clampedType .rdU48LE .wrU48LE, clampedType .rdU48BE .wrU48BE,
   plainType .rdU64LE .wrU64LE 8, plainType .rdU64BE .wrU64BE 8,
   signedType .rdI64LE .wrI64LE 8, signedType .rdI64BE .wrI64BE 8,
   plainType .rdF32LE .wrF32LE 4, plainType .rdF32BE .wrF32BE 4,
   plainType .rdF64LE .wrF64LE 8, plainType .rdF64BE .wrF64BE 8]

/-! The families (30_encoding.md R98) -/

/-- The 20 reads. -/
def isRead (i : Instr) : Prop := ∃ r ∈ rowsReads, r.mnemonic = i.mnemonic

/-- The 20 writes. -/
def isWrite (i : Instr) : Prop := ∃ r ∈ rowsWrites, r.mnemonic = i.mnemonic

/-- The 6 transport instructions. -/
def isTransport (i : Instr) : Prop := ∃ r ∈ rowsTransport, r.mnemonic = i.mnemonic

/-- The 3 system instructions. -/
def isSystem (i : Instr) : Prop := i = .sysStat ∨ i = .sysReset ∨ i = .sysFinfo

/-! The CRC and the link header -/

/-- One bit of the CRC pseudocode (30_encoding.md R103), on naturals. -/
def crcShift (c : Nat) : Nat := if c % 2 = 1 then (c / 2) ^^^ 0xA6BC else c / 2

/-- The CRC pseudocode (30_encoding.md R103), on naturals. -/
def crcNumber (bytes : List Byte) : Nat :=
  bytes.foldl (fun c b => crcShift^[8] (c ^^^ b.toNat)) 0x0000 ^^^ 0xFFFF

/-- `PackLH` (41_link_header.md R202). -/
def packedHeader (h : LinkHeader) : DWord :=
  BitVec.ofNat 64 (h.len.toNat + h.ctrl.toNat * 2 ^ 8 + h.dest.toNat * 2 ^ 16 + h.src.toNat * 2 ^ 32 +
    if 4 < h.len.toNat then 2 ^ 48 else 0)

/-- Byte `k` of the first eight bytes of the wire header (30_encoding.md R102). -/
def wireByte (h : LinkHeader) (k : Nat) : Byte :=
  match k with
  | 0 => 0x05
  | 1 => 0x64
  | 2 => h.len
  | 3 => h.ctrl
  | 4 => h.dest.extractLsb' 0 8
  | 5 => h.dest.extractLsb' 8 8
  | 6 => h.src.extractLsb' 0 8
  | _ => h.src.extractLsb' 8 8

/-- The CRC of a wire header. -/
def headerCrc (h : LinkHeader) : Nat := crcNumber ((List.range 8).map (wireByte h))

/-- Byte `k` of the ten bytes of a wire header: the CRC is at 8 and 9, low byte first. -/
def wireByteCrc (h : LinkHeader) (k : Nat) : Byte :=
  if k < 8 then wireByte h k else BitVec.ofNat 8 (headerCrc h / 256 ^ (k - 8))

/-! The transport unit -/

/-- The value of `TLS` (10_state.md R27). -/
def tlsNumber : Tls → Nat
  | .closed => 0
  | .ready => 1
  | .sending => 2

/-- `RES` of a transport instruction (42_transport.md R233). -/
def tlAnswer (t : Tls) (handled : Bool) : DWord := BitVec.ofNat 64 (tlsNumber t + if handled then 256 else 0)

/-- The next state of the row of the state table that a transport instruction meets (42_transport.md R231), if there
is one. -/
def tableRow (s : State) (i : Instr) : Option Tls :=
  match i, s.tls with
  | .tlUp, .closed => some .ready
  | .tlDown, .ready => some .closed
  | .tlDown, .sending => some .closed
  | .tlSend _ _, .ready => some .sending
  | .tlRecv _ _, .ready => some .ready
  | .tlRecv _ _, .sending => some .sending
  | .tlSucc, .sending =>
    if s.tx.sent + min s.cfg.segPayload (s.tx.len - s.tx.sent) < s.tx.len then some .sending else some .ready
  | .tlFail, .sending => some .ready
  | _, _ => none

/-- A TPDU: header byte (30_encoding.md R104), then `n` bytes of `BUF` from `a` on. -/
def tpdu (m : Memory) (a n : Nat) (fin fir : Bool) (seq : Nat) : List Byte :=
  BitVec.ofNat 8 ((if fin then 128 else 0) + (if fir then 64 else 0) + seq) ::
    (List.range n).map fun k => m.read (a + k)

/-- The states after each of the commands, in order. -/
def statesAfter : List Instr → State → List State
  | [], _ => []
  | i :: is, s =>
    match exec i s with
    | .next t => t :: statesAfter is t
    | .fault _ => []
    | .refused _ => []

/-- The host puts a TPDU into `BUF` and issues `TL.RECV` for it. -/
def deliver (addr : Word) (bytes : List Byte) (s : State) : Host.Outcome State Fault Refusal :=
  match hostStore addr.toNat bytes s with
  | .next t => exec (.tlRecv addr (BitVec.ofNat 64 bytes.length)) t
  | .fault r => .fault r
  | .refused r => .refused r

/-- The states after each of the deliveries, in order. -/
def statesAfterDelivery (addr : Word) : List (List Byte) → State → List State
  | [], _ => []
  | b :: bs, s =>
    match deliver addr b s with
    | .next t => t :: statesAfterDelivery addr bs t
    | .fault _ => []
    | .refused _ => []

/-- Segment `k` of an APDU cut into segments of at most `n` bytes, the first of them numbered `seq`
(42_transport.md R244). -/
def apduSegment (n seq : Nat) (apdu : List Byte) (k : Nat) : List Byte :=
  BitVec.ofNat 8 ((if apdu.length ≤ (k + 1) * n then 128 else 0) + (if k = 0 then 64 else 0) + (seq + k) % 64) ::
    (apdu.drop (k * n)).take n

/-- All segments of an APDU. -/
def apduSegments (n seq : Nat) (apdu : List Byte) : List (List Byte) :=
  (List.range ((apdu.length + n - 1) / n)).map (apduSegment n seq apdu)

/-! The object unit -/

/-- A row of the qualifier table (30_encoding.md R106). -/
structure QualifierEntry where
  qual : Byte
  htype : HeaderType
  rw : Nat
  pfx : PrefixSize
  hdrlen : Nat

/-- The qualifier table (30_encoding.md R106). -/
def qualifierTable : List QualifierEntry :=
  [⟨0x00, .ranged, 1, .none, 5⟩, ⟨0x01, .ranged, 2, .none, 7⟩, ⟨0x02, .ranged, 4, .none, 11⟩,
   ⟨0x06, .all, 0, .none, 3⟩,
   ⟨0x07, .count, 1, .none, 4⟩, ⟨0x08, .count, 2, .none, 5⟩, ⟨0x09, .count, 4, .none, 7⟩,
   ⟨0x17, .countIndex, 1, .one, 4⟩, ⟨0x28, .countIndex, 2, .two, 5⟩, ⟨0x39, .countIndex, 4, .four, 7⟩]

/-- `OH.PARSE` completes: `HI` takes the fields of the header at `addr`, the answer is their packing
(43_object_iterator.md R284), and nothing else changes. -/
def Parses (otype : ObjType) (osize : Half) (addr : Word) (s : State) (e : QualifierEntry) (start count : Nat) :
    Prop :=
  let a := addr.toNat
  exec (.ohParse otype osize addr) s = .next { s with
    hi := {
      group := s.buf.read a
      var := s.buf.read (a + 1)
      qual := e.qual
      htype := e.htype
      otype := otype
      osize := osize
      pfx := e.pfx
      count := count
      start := BitVec.ofNat 32 start
      hdrlen := BitVec.ofNat 4 e.hdrlen }
    rsp := some ⟨0x00, BitVec.ofNat 64 ((s.buf.read a).toNat + (s.buf.read (a + 1)).toNat * 2 ^ 8 + e.qual.toNat * 2 ^ 16 +
      e.hdrlen * 2 ^ 24 + e.pfx.bytes * 2 ^ 28 + (if otype = .bitfield then 2 ^ 31 else 0) + start * 2 ^ 32), []⟩ }

/-- The index of object `n` of a header whose prefix is at `p` (43_object_iterator.md R283). -/
def objectIndex (m : Memory) (h : HeaderInfo) (p n : Nat) : Nat :=
  match h.htype with
  | .ranged => h.start.toNat + n
  | .all => n
  | .count => n
  | .countIndex => littleEndian m p h.pfx.bytes

/-- The prefix at `p` that the header's objects carry lies inside `BUF`; only a COUNT_INDEX header has one. -/
def prefixInside (s : State) (h : HeaderInfo) (p : Nat) : Prop :=
  h.htype = .countIndex → h.pfx = .none ∨ p + h.pfx.bytes ≤ s.cfg.bufSize

/-- The iterator at object `n` whose prefix is at `p` (43_object_iterator.md R282). -/
def iteratorAt (m : Memory) (h : HeaderInfo) (hasData : Bool) (p n : Nat) : Iter :=
  ⟨h, n, hasData, BitVec.ofNat 64 p, BitVec.ofNat 64 (p + h.pfx.bytes), BitVec.ofNat 32 (objectIndex m h p n), h.start⟩

/-- Where the next object's prefix is (43_object_iterator.md R289). -/
def nextPrefix (i : Iter) : Nat :=
  match i.h.otype, i.hasData with
  | .fixed, true => i.pfxPos.toNat + i.h.pfx.bytes + i.h.osize.toNat
  | .fixed, false => i.pfxPos.toNat
  | .bitfield, _ => i.pfxPos.toNat

/-- What an advance (`OI.INC`, `OI.PINC`) does, with `its` the value `ITS` takes (43_object_iterator.md R289). -/
def AdvanceRule (i : Instr) (s : State) (its : Iter) : Prop :=
  (s.it.h.count ≤ s.it.n → Raises i s 0x03 (BitVec.ofNat 64 s.it.n)) ∧
  (s.it.n + 1 = s.it.h.count →
    exec i s = .next { s with it := { s.it with n := s.it.n + 1 }, its := its, rsp := some ⟨0x00, 1, []⟩ }) ∧
  (s.it.n + 1 < s.it.h.count → prefixInside s s.it.h (nextPrefix s.it) →
    exec i s = .next { s with
      it := iteratorAt s.buf s.it.h s.it.hasData (nextPrefix s.it) (s.it.n + 1)
      its := its
      rsp := some ⟨0x00, 0, []⟩ }) ∧
  (s.it.n + 1 < s.it.h.count → ¬prefixInside s s.it.h (nextPrefix s.it) →
    Raises i s 0x07 (BitVec.ofNat 64 (nextPrefix s.it)))

/-- What the cursor of an iterator is after `k` advances (43_object_iterator.md R296). -/
structure CursorAt (m : Memory) (h : HeaderInfo) (hasData : Bool) (dataaddr : Nat) (k : Nat) (i : Iter) : Prop where
  header : i.h = h
  n : i.n = k
  fixedData : h.otype = .fixed → hasData = true →
    i.pfxPos.toNat = dataaddr + k * (h.pfx.bytes + h.osize.toNat)
  bitfieldData : h.otype = .bitfield → hasData = true → i.pfxPos.toNat = dataaddr
  noData : hasData = false → i.pfxPos.toNat = 0
  pos : i.pos.toNat = i.pfxPos.toNat + h.pfx.bytes
  index : i.index.toNat = objectIndex m h i.pfxPos.toNat k

/-! Noninterference -/

/-- Two states that differ in nothing but the bytes of `RX_BUF` from `RX_LEN` on. -/
structure AgreeButSpareRx (s s' : State) : Prop where
  rest : { s with rx := { s.rx with buf := s'.rx.buf } } = s'
  used : ∀ a < s.rx.len, s.rx.buf.read a = s'.rx.buf.read a

/-- The codes a command of this instruction can answer with while the DCB is not halted (60_exceptions.md R342). -/
def answerCodes (i : Instr) : List Byte :=
  match i with
  | .rdU8 _ => [0x00, 0x07]
  | .rdI8 _ => [0x00, 0x07]
  | .rdU16LE _ => [0x00, 0x07]
  | .rdU16BE _ => [0x00, 0x07]
  | .rdI16LE _ => [0x00, 0x07]
  | .rdI16BE _ => [0x00, 0x07]
  | .rdU32LE _ => [0x00, 0x07]
  | .rdU32BE _ => [0x00, 0x07]
  | .rdI32LE _ => [0x00, 0x07]
  | .rdI32BE _ => [0x00, 0x07]
  | .rdU48LE _ => [0x00, 0x07]
  | .rdU48BE _ => [0x00, 0x07]
  | .rdU64LE _ => [0x00, 0x07]
  | .rdU64BE _ => [0x00, 0x07]
  | .rdI64LE _ => [0x00, 0x07]
  | .rdI64BE _ => [0x00, 0x07]
  | .rdF32LE _ => [0x00, 0x07]
  | .rdF32BE _ => [0x00, 0x07]
  | .rdF64LE _ => [0x00, 0x07]
  | .rdF64BE _ => [0x00, 0x07]
  | .wrU8 _ _ => [0x00, 0x07]
  | .wrI8 _ _ => [0x00, 0x07]
  | .wrU16LE _ _ => [0x00, 0x07]
  | .wrU16BE _ _ => [0x00, 0x07]
  | .wrI16LE _ _ => [0x00, 0x07]
  | .wrI16BE _ _ => [0x00, 0x07]
  | .wrU32LE _ _ => [0x00, 0x07]
  | .wrU32BE _ _ => [0x00, 0x07]
  | .wrI32LE _ _ => [0x00, 0x07]
  | .wrI32BE _ _ => [0x00, 0x07]
  | .wrU48LE _ _ => [0x00, 0x07]
  | .wrU48BE _ _ => [0x00, 0x07]
  | .wrU64LE _ _ => [0x00, 0x07]
  | .wrU64BE _ _ => [0x00, 0x07]
  | .wrI64LE _ _ => [0x00, 0x07]
  | .wrI64BE _ _ => [0x00, 0x07]
  | .wrF32LE _ _ => [0x00, 0x07]
  | .wrF32BE _ _ => [0x00, 0x07]
  | .wrF64LE _ _ => [0x00, 0x07]
  | .wrF64BE _ _ => [0x00, 0x07]
  | .lhRead _ => [0x00, 0x07]
  | .lhWrite _ => [0x00, 0x07]
  | .crcCalc _ _ => [0x00, 0x07]
  | .tlSend _ _ => [0x00, 0x01, 0x07]
  | .tlRecv _ _ => [0x00, 0x07]
  | .ohParse _ _ _ => [0x00, 0x04, 0x05, 0x07]
  | .oiInit _ _ => [0x00, 0x01, 0x07]
  | .oiDeref => [0x00, 0x02, 0x03]
  | .oiInfo => [0x00, 0x03]
  | .oiInc => [0x00, 0x03, 0x07]
  | .oiPinc => [0x00, 0x03, 0x07]
  | .lhSet _ _ _ _ => [0x00]
  | .lhGet => [0x00]
  | .lhCtrl _ _ _ _ => [0x00]
  | .lhChfcb _ => [0x00]
  | .lhFunc => [0x00]
  | .tlUp => [0x00]
  | .tlDown => [0x00]
  | .tlSucc => [0x00]
  | .tlFail => [0x00]
  | .oiHasdata => [0x00]
  | .oiCount => [0x00]
  | .oiIsend => [0x00]
  | .oiSwap => [0x00]
  | .sysStat => [0x00]
  | .sysReset => [0x00]
  | .sysFinfo => [0x00]

end Sys2Proof.Claims

open Sys2Proof Sys2Proof.Machine Sys2Proof.Claims

/-! ## Encoding and the step -/

/-- Encoding an instruction and decoding the frame gives the instruction back, for every operand (30_encoding.md R92 to
R97, R109). -/
def Obligations.DecodeOfEncodeIsIdentity : Prop := ∀ i, decode (encode i) = .ok i

/-- The decoder accepts a frame just when a row of the opcode table selects its `CW`; then exactly one row does, it
carries the instruction's mnemonic, and the instruction's own word is that `CW` (30_encoding.md R98). -/
def Obligations.DecodeAcceptsExactlyTheOpcodeTable : Prop :=
  ∀ f : Frame,
    ((∃ i, decode f = .ok i) ↔ ∃ r ∈ opcodeTable, f.cw &&& r.mask = r.pattern) ∧
    (∀ r ∈ opcodeTable, ∀ q ∈ opcodeTable, f.cw &&& r.mask = r.pattern → f.cw &&& q.mask = q.pattern → r = q) ∧
    ∀ i, decode f = .ok i →
      (encode i).cw = f.cw ∧ ∃ r ∈ opcodeTable, f.cw &&& r.mask = r.pattern ∧ r.mnemonic = i.mnemonic

/-- Words that the examples of the instruction rules write out decode to the instructions they stand for
(30_encoding.md R109; 41_link_header.md R204, R208; 43_object_iterator.md R284, R285). -/
def Obligations.ExampleWordsDecode : Prop :=
  decode ⟨0x22000000, 16, 0xBEEF⟩ = .ok (.wrU16LE 16 0xBEEF) ∧
  decode ⟨0x400005C0, 0x04000001, 0⟩ = .ok (.lhSet 5 0xC0 1 1024) ∧
  decode ⟨0x44000440, 0, 0⟩ = .ok (.lhCtrl true false false 0x40) ∧
  decode ⟨0x52000000, 0, 10⟩ = .ok (.tlSend 0 10) ∧
  decode ⟨0x60000001, 0, 0⟩ = .ok (.ohParse .fixed 1 0) ∧
  decode ⟨0x61000001, 5, 0⟩ = .ok (.oiInit true 5) ∧
  decode ⟨0x70000000, 0, 0⟩ = .ok .sysStat

/-- A step whose pending host action is a command runs the decoded instruction on the state with that action taken off
the list and nothing on the response port, and does nothing else. That commands wait in `inp` is the model's choice (log
1). -/
def Obligations.StepRunsTheDecodedInstruction : Prop :=
  ∀ s f rest i, s.inp = .command f :: rest → decode f = .ok i → step s = exec i { s with inp := rest, rsp := none }

/-- A `CW` that no row of the opcode table selects raises ERR_ILLEGAL_CMD with `CW` as info, and `OPC` is latched from
bits 31:24 of it; `OPA` and `OPB` play no part (60_exceptions.md R347). -/
def Obligations.IllegalWordRaisesIllegalCommand : Prop :=
  ∀ s f rest, s.inp = .command f :: rest → (∀ r ∈ opcodeTable, f.cw &&& r.mask ≠ r.pattern) → s.halt = false →
    step s = .next (raised { s with inp := rest } 0x06 (f.cw.extractLsb' 24 8) (f.cw.setWidth 64))

/-- A step whose pending host action stores bytes inside `BUF` stores them and changes nothing else, halted or not; a
store that reaches outside `BUF` stops the model with its fault; with nothing pending the step changes nothing. Neither
a store nor an idle step has a response: the one of the step before is not kept. The three are the model's choices for the host's side of the boundary (logs 1, 6 and 8). -/
def Obligations.HostStoresBytesBetweenCommands : Prop :=
  (∀ s addr bytes rest, s.inp = .store addr bytes :: rest → bytes ≠ [] →
    (addr + bytes.length ≤ s.cfg.bufSize →
      ∃ m, step s = .next { s with buf := m, inp := rest, rsp := none } ∧
        (∀ k < bytes.length, m.read (addr + k) = bytes.getD k 0) ∧
        ∀ b, b < addr ∨ addr + bytes.length ≤ b → m.read b = s.buf.read b) ∧
    (s.cfg.bufSize < addr + bytes.length → step s = .fault .hostStoreRange)) ∧
  ∀ s, s.inp = [] → step s = .next { s with rsp := none }

/-! ## Errors, the halt and the frame of every command -/

/-- While halted every command but a well-formed `SYS.STAT`, `SYS.RESET` or `SYS.FINFO` answers HALTED and changes
nothing, an illegal word included; `SYS.RESET` clears `HALT` (60_exceptions.md R346). -/
def Obligations.HaltedCommandsAreRefused : Prop :=
  (∀ s f rest, s.inp = .command f :: rest → s.halt = true → (∀ i, decode f = .ok i → ¬isSystem i) →
    step s = .next { s with inp := rest, rsp := some ⟨0x08, 0, []⟩ }) ∧
  (∀ i s, s.halt = true → ¬isSystem i → exec i s = .next { s with rsp := some ⟨0x08, 0, []⟩ }) ∧
  ∀ s, ∃ t, exec .sysReset s = .next t ∧ t.halt = false

/-- Every command ends, and in exactly one of the outcomes of R340: success; an error of code 1 to 6 or the fatal error
7, which do to the state what `raise` does and nothing else (R343, R344); or the refusal while halted
(60_exceptions.md). -/
def Obligations.CommandsEndInOneOfTheOutcomes : Prop :=
  ∀ i s, ∃ t, exec i s = .next t ∧
    (t.status = some 0x00 ∨
     (s.halt = false ∧ ∃ code info, 1 ≤ code.toNat ∧ code.toNat ≤ 7 ∧
        t = raised s code ((encode i).cw.extractLsb' 24 8) info) ∨
     (s.halt = true ∧ ¬isSystem i ∧ t = { s with rsp := some ⟨0x08, 0, []⟩ }))

/-- `FSR` is written only by a raise, and only while it is empty: a taken latch stays through every command but
`SYS.RESET`; a command that succeeds leaves it and `HALT` alone; and what it latches is the code of that very
response (10_state.md R23, R24). -/
def Obligations.FirstErrorStaysLatched : Prop :=
  ∀ i s t, exec i s = .next t → i ≠ .sysReset →
    (s.fsr.fcode ≠ 0x00 → t.fsr = s.fsr) ∧
    (t.status = some 0x00 → t.fsr = s.fsr ∧ t.halt = s.halt) ∧
    (t.fsr ≠ s.fsr → t.status = some t.fsr.fcode ∧ t.fsr.fopc = (encode i).cw.extractLsb' 24 8) ∧
    (t.halt ≠ s.halt → t.status = some 0x07 ∧ t.halt = true)

/-- Each register and `BUF` is changed only by the instructions the state rules name beside it, and by reset
(10_state.md R26 to R28, R30 to R33; 20_memory.md R61); the parameters and the pending actions by none (that the two
stand beside the state is the model's choice, logs 1 and 3). -/
def Obligations.RegistersChangeOnlyByTheirInstructions : Prop :=
  ∀ i s t, exec i s = .next t → i ≠ .sysReset →
    (t.lh ≠ s.lh → (∃ len ctrl dest src, i = .lhSet len ctrl dest src) ∨ (∃ addr, i = .lhRead addr) ∨
      ∃ fcb, i = .lhChfcb fcb) ∧
    (t.lh ≠ s.lh → ∀ fcb, i = .lhChfcb fcb → t.lh = { s.lh with ctrl := t.lh.ctrl }) ∧
    (t.tls ≠ s.tls → i = .tlUp ∨ i = .tlDown ∨ i = .tlSucc ∨ i = .tlFail ∨ ∃ addr len, i = .tlSend addr len) ∧
    (t.tx ≠ s.tx → i = .tlSucc ∨ ∃ addr len, i = .tlSend addr len) ∧
    (t.tx.seq ≠ s.tx.seq → i = .tlSucc ∧ s.tls = .sending) ∧
    (t.rx ≠ s.rx → i = .tlDown ∨ ∃ addr len, i = .tlRecv addr len) ∧
    (t.hi ≠ s.hi → ∃ otype osize addr, i = .ohParse otype osize addr) ∧
    (t.it ≠ s.it → i = .oiInc ∨ i = .oiPinc ∨ i = .oiSwap ∨ ∃ hasdata addr, i = .oiInit hasdata addr) ∧
    (t.its ≠ s.its → i = .oiPinc ∨ i = .oiSwap) ∧
    (t.buf ≠ s.buf → isWrite i ∨ ∃ addr, i = .lhWrite addr) ∧
    t.cfg = s.cfg ∧ t.inp = s.inp

/-- No command emits more than one event, and only a transport command emits any; `RES` is 0 and there is no event
whenever `ST` is not OK (30_encoding.md R91; 60_exceptions.md R351). -/
def Obligations.EventsComeFromTransportCommands : Prop :=
  ∀ i s, ∃ t r, exec i s = .next t ∧ t.rsp = some r ∧ r.ev.length ≤ 1 ∧ (r.ev ≠ [] → isTransport i) ∧
    (r.st ≠ 0x00 → r.res = 0 ∧ r.ev = [])

/-- While not halted and in a state whose transmitter is legal, an instruction answers only with the codes that R342
lists for it. The spec marks the table as derived from each instruction's rule. -/
def Obligations.InstructionsRaiseOnlyTheirErrors : Prop :=
  ∀ i s, s.halt = false → s.TransmitterLegal → ∃ t, exec i s = .next t ∧ ∃ code ∈ answerCodes i, t.status = some code

/-! ## The byte codec -/

/-- The unsigned reads: the bytes at `addr` in the instruction's byte order, zero-extended (40_byte_codec.md R146, R152
and the rules of the nine instructions). -/
def Obligations.UnsignedReadsReturnTheNumberInBuf : Prop :=
  ReadRule 0x00000000 .rdU8 1 littleEndian ∧
  ReadRule 0x02000000 .rdU16LE 2 littleEndian ∧ ReadRule 0x12000000 .rdU16BE 2 bigEndian ∧
  ReadRule 0x04000000 .rdU32LE 4 littleEndian ∧ ReadRule 0x14000000 .rdU32BE 4 bigEndian ∧
  ReadRule 0x06000000 .rdU48LE 6 littleEndian ∧ ReadRule 0x16000000 .rdU48BE 6 bigEndian ∧
  ReadRule 0x08000000 .rdU64LE 8 littleEndian ∧ ReadRule 0x18000000 .rdU64BE 8 bigEndian

/-- The signed reads: the bytes at `addr` in the instruction's byte order, as two's complement (40_byte_codec.md R145
and the rules of the seven instructions). -/
def Obligations.SignedReadsReturnTheNumberInBuf : Prop :=
  ReadRule 0x01000000 .rdI8 1 signedLittle ∧
  ReadRule 0x03000000 .rdI16LE 2 signedLittle ∧ ReadRule 0x13000000 .rdI16BE 2 signedBig ∧
  ReadRule 0x05000000 .rdI32LE 4 signedLittle ∧ ReadRule 0x15000000 .rdI32BE 4 signedBig ∧
  ReadRule 0x09000000 .rdI64LE 8 signedLittle ∧ ReadRule 0x19000000 .rdI64BE 8 signedBig

/-- The float reads: the bit pattern at `addr`, zero-extended (40_byte_codec.md R176 to R179). -/
def Obligations.FloatReadsReturnTheBitPattern : Prop :=
  ReadRule 0x0A000000 .rdF32LE 4 littleEndian ∧ ReadRule 0x1A000000 .rdF32BE 4 bigEndian ∧
  ReadRule 0x0B000000 .rdF64LE 8 littleEndian ∧ ReadRule 0x1B000000 .rdF64BE 8 bigEndian

/-- The unsigned writes of 1, 2, 4 and 8 bytes store the low bytes of the value (40_byte_codec.md R147 and the rules of
the seven instructions). -/
def Obligations.UnsignedWritesStoreTheLowBytes : Prop :=
  WriteRule 0x20000000 .wrU8 1 lowFirst ∧
  WriteRule 0x22000000 .wrU16LE 2 lowFirst ∧ WriteRule 0x32000000 .wrU16BE 2 (highFirst 2) ∧
  WriteRule 0x24000000 .wrU32LE 4 lowFirst ∧ WriteRule 0x34000000 .wrU32BE 4 (highFirst 4) ∧
  WriteRule 0x28000000 .wrU64LE 8 lowFirst ∧ WriteRule 0x38000000 .wrU64BE 8 (highFirst 8)

/-- The signed writes store the low bytes of the value (40_byte_codec.md R147 and the rules of the seven
instructions). -/
def Obligations.SignedWritesStoreTheLowBytes : Prop :=
  WriteRule 0x21000000 .wrI8 1 lowFirst ∧
  WriteRule 0x23000000 .wrI16LE 2 lowFirst ∧ WriteRule 0x33000000 .wrI16BE 2 (highFirst 2) ∧
  WriteRule 0x25000000 .wrI32LE 4 lowFirst ∧ WriteRule 0x35000000 .wrI32BE 4 (highFirst 4) ∧
  WriteRule 0x29000000 .wrI64LE 8 lowFirst ∧ WriteRule 0x39000000 .wrI64BE 8 (highFirst 8)

/-- The float writes store the low bytes of the value (40_byte_codec.md R196 to R199). -/
def Obligations.FloatWritesStoreTheLowBytes : Prop :=
  WriteRule 0x2A000000 .wrF32LE 4 lowFirst ∧ WriteRule 0x3A000000 .wrF32BE 4 (highFirst 4) ∧
  WriteRule 0x2B000000 .wrF64LE 8 lowFirst ∧ WriteRule 0x3B000000 .wrF64BE 8 (highFirst 8)

/-- The 48-bit writes store six bytes FF for a value above `2^48 - 1` and the value's low six bytes otherwise
(40_byte_codec.md R153, R190, R191). -/
def Obligations.WritesOf48BitsClamp : Prop :=
  WriteRule 0x26000000 .wrU48LE 6 (clamped lowFirst) ∧ WriteRule 0x36000000 .wrU48BE 6 (clamped (highFirst 6))

/-- The round trips of R150 for each of the 20 types: writing back what was read changes no byte; reading back an
in-range value gives it; an out-of-range value reads back truncated, or clamped for the 48-bit types
(40_byte_codec.md). The spec marks the laws as derived from R144 to R147 and R153. -/
def Obligations.CodecRoundTrips : Prop :=
  ∀ T ∈ codecTypes, ∀ addr s, s.halt = false → addr.toNat + T.width ≤ s.cfg.bufSize →
    (∃ t u v, exec (T.rd addr) s = .next t ∧ t.result = some v ∧ exec (T.wr addr v) t = .next u ∧
      u.status = some 0x00 ∧ ∀ b, u.buf.read b = s.buf.read b) ∧
    ∀ v, ∃ t u, exec (T.wr addr v) s = .next t ∧ exec (T.rd addr) t = .next u ∧ u.status = some 0x00 ∧
      (T.inRange v → u.result = some v) ∧ (¬T.inRange v → u.result = some (T.readBack v))

/-- The codec is stateless: what a read or a write answers and what it leaves in `BUF` depend on `BUF`, `HALT` and the
parameters alone (40_byte_codec.md R140). -/
def Obligations.CodecDependsOnlyOnBuf : Prop :=
  ∀ i s s', isRead i ∨ isWrite i → s.buf = s'.buf → s.halt = s'.halt → s.cfg = s'.cfg →
    ∃ t t', exec i s = .next t ∧ exec i s' = .next t' ∧ t.rsp = t'.rsp ∧ t.buf = t'.buf ∧ t.halt = t'.halt

/-! ## The link header unit -/

/-- `CRC16` is the bit-serial algorithm of R103, and it has the three check values of that rule (30_encoding.md). The
algorithm is a passage the spec marks as general knowledge (log 10). -/
def Obligations.Crc16IsTheBitSerialAlgorithm : Prop :=
  (∀ bytes, (crc16 bytes).toNat = crcNumber bytes) ∧
  crcNumber [0x31, 0x32, 0x33, 0x34, 0x35, 0x36, 0x37, 0x38, 0x39] = 0xEA82 ∧
  crcNumber [] = 0xFFFF ∧
  crcNumber [0x05, 0x64, 0x05, 0xC0, 0x01, 0x00, 0x00, 0x04] = 0x21E9

/-- `LH.SET` loads `LH` from its operands, `LH.READ` from bytes 2 to 7 of the ten at `addr` (start bytes and CRC have no
effect), `LH.GET` leaves it; each answers with the packed header (41_link_header.md R202, R204, R205, R206). -/
def Obligations.LinkHeaderIsSetReadAndReturned : Prop :=
  (∀ (len ctrl : Byte) (dest src : Half) opb,
    decode ⟨0x40000000 ||| len.setWidth 32 <<< 8 ||| ctrl.setWidth 32, dest.setWidth 32 ||| src.setWidth 32 <<< 16,
      opb⟩ = .ok (.lhSet len ctrl dest src)) ∧
  (∀ s len ctrl dest src, s.halt = false →
    exec (.lhSet len ctrl dest src) s = .next { s with
      lh := ⟨len, ctrl, dest, src⟩, rsp := some ⟨0x00, packedHeader ⟨len, ctrl, dest, src⟩, []⟩ }) ∧
  PlainWord 0x41000000 .lhGet ∧
  (∀ s, s.halt = false → Answers .lhGet s (packedHeader s.lh)) ∧
  (∀ addr opb, decode ⟨0x42000000, addr, opb⟩ = .ok (.lhRead addr)) ∧
  ∀ addr s, s.halt = false →
    (addr.toNat + 10 ≤ s.cfg.bufSize → ∃ h : LinkHeader,
      h.len = s.buf.read (addr.toNat + 2) ∧ h.ctrl = s.buf.read (addr.toNat + 3) ∧
      h.dest.toNat = littleEndian s.buf (addr.toNat + 4) 2 ∧ h.src.toNat = littleEndian s.buf (addr.toNat + 6) 2 ∧
      exec (.lhRead addr) s = .next { s with lh := h, rsp := some ⟨0x00, packedHeader h, []⟩ }) ∧
    (s.cfg.bufSize < addr.toNat + 10 → Raises (.lhRead addr) s 0x07 (addr.setWidth 64))

/-- `LH.WRITE` stores the ten bytes of the header in `LH` and answers with their CRC (41_link_header.md R207). The CRC
and its byte order are passages the spec marks as general knowledge (log 10). -/
def Obligations.LinkHeaderIsWrittenWithItsCrc : Prop :=
  (∀ addr opb, decode ⟨0x43000000, addr, opb⟩ = .ok (.lhWrite addr)) ∧
  ∀ addr s, s.halt = false →
    (addr.toNat + 10 ≤ s.cfg.bufSize →
      Stores (.lhWrite addr) s addr.toNat 10 (wireByteCrc s.lh) (BitVec.ofNat 64 (headerCrc s.lh))) ∧
    (s.cfg.bufSize < addr.toNat + 10 → Raises (.lhWrite addr) s 0x07 (addr.setWidth 64))

/-- For every value of `LH`, `LH.WRITE` and then `LH.READ` at the same address leave `LH` unchanged, whatever lies
between the two in `LH` (41_link_header.md R203). The spec marks the law as derived from R206 and R207. -/
def Obligations.LinkHeaderRoundTrips : Prop :=
  ∀ addr s, s.halt = false → addr.toNat + 10 ≤ s.cfg.bufSize →
    ∃ t, exec (.lhWrite addr) s = .next t ∧ t.status = some 0x00 ∧ t.lh = s.lh ∧
      ∀ h, ∃ u, exec (.lhRead addr) { t with lh := h } = .next u ∧ u.status = some 0x00 ∧ u.lh = s.lh

/-- `LH.CTRL` packs its operands into a control byte and touches no register; `LH.CHFCB` sets bit 5 of `LH.CTRL` and
leaves every other bit and field; `LH.FUNC` answers bits 6 and 3:0 of it (41_link_header.md R208, R209, R210). The bit
positions and masks are passages the spec marks as general knowledge (log 10); that `LH.CHFCB` sets the bit is what
"this spec takes it to" do. -/
def Obligations.ControlByteInstructions : Prop :=
  (∀ (dir fcb fcv : Bool) (func : Byte) opa opb,
    decode ⟨0x44000000 ||| (BitVec.ofBool dir).setWidth 32 <<< 10 ||| (BitVec.ofBool fcb).setWidth 32 <<< 9 |||
      (BitVec.ofBool fcv).setWidth 32 <<< 8 ||| func.setWidth 32, opa, opb⟩ = .ok (.lhCtrl dir fcb fcv func)) ∧
  (∀ s dir fcb fcv func, s.halt = false →
    Answers (.lhCtrl dir fcb fcv func) s (BitVec.ofNat 64 (func.toNat % 16 + (func.toNat / 64 % 2) * 64 +
      dir.toNat * 128 + fcb.toNat * 32 + fcv.toNat * 16))) ∧
  PlainWord 0x45000000 (.lhChfcb false) ∧ PlainWord 0x45000001 (.lhChfcb true) ∧
  (∀ s fcb, s.halt = false → ∃ ctrl : Byte,
    (∀ k < 8, ctrl.getLsbD k = if k = 5 then fcb else s.lh.ctrl.getLsbD k) ∧
    exec (.lhChfcb fcb) s = .next { s with
      lh := { s.lh with ctrl := ctrl }, rsp := some ⟨0x00, ctrl.setWidth 64, []⟩ }) ∧
  PlainWord 0x46000000 .lhFunc ∧
  ∀ s, s.halt = false →
    Answers .lhFunc s (BitVec.ofNat 64 (s.lh.ctrl.toNat % 16 + (s.lh.ctrl.toNat / 64 % 2) * 64))

/-- `CRC.CALC` answers the CRC of `len` bytes at `addr`; a length of 0 reads nothing and never raises
(41_link_header.md R211). The algorithm is a passage the spec marks as general knowledge (log 10). -/
def Obligations.CrcCalcReturnsTheCrcOfTheRange : Prop :=
  (∀ addr len, decode ⟨0x47000000, addr, len⟩ = .ok (.crcCalc addr len)) ∧
  ∀ addr len s, s.halt = false →
    (len = 0 → Answers (.crcCalc addr len) s 0xFFFF) ∧
    (addr.toNat + len.toNat ≤ s.cfg.bufSize →
      Answers (.crcCalc addr len) s
        (BitVec.ofNat 64 (crcNumber ((List.range len.toNat).map fun k => s.buf.read (addr.toNat + k))))) ∧
    (len ≠ 0 → s.cfg.bufSize < addr.toNat + len.toNat → Raises (.crcCalc addr len) s 0x07 (addr.setWidth 64))

/-- `LH.WRITE` and then `CRC.CALC` over the first 8 of its bytes answer the same CRC (20_memory.md R71). It rests on
passages the spec marks as general knowledge (log 10). -/
def Obligations.CrcCalcFindsTheWrittenCrc : Prop :=
  ∀ addr s, s.halt = false → addr.toNat + 10 ≤ s.cfg.bufSize →
    ∃ t u, exec (.lhWrite addr) s = .next t ∧ exec (.crcCalc addr 8) t = .next u ∧
      t.status = some 0x00 ∧ u.rsp = t.rsp ∧
      u.result = some (BitVec.ofNat 64 (littleEndian u.buf (addr.toNat + 8) 2))

/-! ## The transport unit -/

/-- `TL.UP`, `TL.DOWN` and `TL.FAIL` in each state: the state change, the receiver reset of `TL.DOWN`, the event, the
answer; a pair outside the state table changes nothing (42_transport.md R239, R248, R249). -/
def Obligations.LayerUpDownAndSendFailure : Prop :=
  PlainWord 0x50000000 .tlUp ∧ PlainWord 0x51000000 .tlDown ∧ PlainWord 0x55000000 .tlFail ∧
  ∀ s, s.halt = false →
    (s.tls = .closed →
      exec .tlUp s = .next { s with tls := .ready, rsp := some ⟨0x00, 0x101, [.upperLayerUp]⟩ } ∧
      Answers .tlDown s 0x000) ∧
    (s.tls ≠ .closed →
      Answers .tlUp s (tlAnswer s.tls false) ∧
      exec .tlDown s = .next { s with
        rx := { s.rx with active := false, len := 0 }, tls := .closed,
        rsp := some ⟨0x00, 0x100, [.upperLayerDown]⟩ }) ∧
    (s.tls = .sending →
      exec .tlFail s = .next { s with tls := .ready, rsp := some ⟨0x00, 0x101, [.upperSendFailure]⟩ }) ∧
    (s.tls ≠ .sending → Answers .tlFail s (tlAnswer s.tls false))

/-- Every transport command that does not raise: a (state, event) pair that is a row of the state table ends in the
row's next state and answers it with `handled = 1`; any other pair changes nothing and answers with `handled = 0`
(42_transport.md R232, R233). -/
def Obligations.TransportFollowsTheStateTable : Prop :=
  ∀ i s, isTransport i → s.halt = false → ∃ t, exec i s = .next t ∧
    (t.status = some 0x00 →
      match tableRow s i with
      | some q => t.tls = q ∧ t.result = some (tlAnswer q true)
      | none => t = { s with rsp := some ⟨0x00, tlAnswer s.tls false, []⟩ })

/-- `TL.SEND`: the length check in every state, the no-op outside Ready, the range check, and the accepted send with
its first segment (42_transport.md R236). -/
def Obligations.SendEmitsTheFirstSegment : Prop :=
  (∀ addr len, decode ⟨0x52000000, addr, len⟩ = .ok (.tlSend addr len)) ∧
  ∀ addr len s, s.halt = false →
    (len = 0 ∨ s.cfg.fragSize < len.toNat → Raises (.tlSend addr len) s 0x01 len) ∧
    (1 ≤ len.toNat → len.toNat ≤ s.cfg.fragSize → s.tls ≠ .ready →
      Answers (.tlSend addr len) s (tlAnswer s.tls false)) ∧
    (1 ≤ len.toNat → len.toNat ≤ s.cfg.fragSize → s.tls = .ready → s.cfg.bufSize < addr.toNat + len.toNat →
      Raises (.tlSend addr len) s 0x07 (addr.setWidth 64)) ∧
    (1 ≤ len.toNat → len.toNat ≤ s.cfg.fragSize → s.tls = .ready → addr.toNat + len.toNat ≤ s.cfg.bufSize →
      exec (.tlSend addr len) s = .next { s with
        tls := .sending
        tx := { s.tx with base := addr, len := len.toNat, sent := 0 }
        rsp := some ⟨0x00, 0x102, [.lowerSend (tpdu s.buf addr.toNat (min s.cfg.segPayload len.toNat)
          (decide (len.toNat ≤ s.cfg.segPayload)) true s.tx.seq.toNat)]⟩ })

/-- `TL.SUCC`: outside Sending a no-op; in Sending the completed segment is counted, the sequence number advances modulo
64, and the next segment goes out or the send ends (42_transport.md R238). -/
def Obligations.SuccessSendsTheNextSegmentOrEnds : Prop :=
  PlainWord 0x54000000 .tlSucc ∧
  ∀ s, s.halt = false →
    (s.tls ≠ .sending → Answers .tlSucc s (tlAnswer s.tls false)) ∧
    ∀ sent, sent = s.tx.sent + min s.cfg.segPayload (s.tx.len - s.tx.sent) → s.tls = .sending →
      ∀ seq : Seq, seq.toNat = (s.tx.seq.toNat + 1) % 64 →
      (s.tx.len ≤ sent →
        exec .tlSucc s = .next { s with
          tls := .ready
          tx := { s.tx with sent := sent, seq := seq }
          rsp := some ⟨0x00, 0x101, [.upperSendSuccess]⟩ }) ∧
      (sent < s.tx.len → s.tx.base.toNat + s.tx.len ≤ s.cfg.bufSize →
        exec .tlSucc s = .next { s with
          tx := { s.tx with sent := sent, seq := seq }
          rsp := some ⟨0x00, 0x102, [.lowerSend (tpdu s.buf (s.tx.base.toNat + sent)
            (min s.cfg.segPayload (s.tx.len - sent)) (decide (s.tx.len - sent ≤ s.cfg.segPayload))
            (decide (sent = 0)) seq.toNat)]⟩ })

/-- A `TL.SEND` issued in reaction to UpperSendSuccess or UpperSendFailure finds Ready and is accepted: the state change
is done before the event is seen (42_transport.md R234). -/
def Obligations.SendInReactionToCompletionIsAccepted : Prop :=
  ∀ i s t addr len, i = .tlSucc ∨ i = .tlFail → exec i s = .next t →
    t.events = [.upperSendSuccess] ∨ t.events = [.upperSendFailure] →
    1 ≤ len.toNat → len.toNat ≤ s.cfg.fragSize → addr.toNat + len.toNat ≤ s.cfg.bufSize →
    t.tls = .ready ∧ ∃ u, exec (.tlSend addr len) t = .next u ∧ u.tls = .sending ∧ u.status = some 0x00 ∧
      u.result = some 0x102

/-- `TL.RECV`: Closed, too short, outside `BUF`, and the receiver procedure with each of its ways out; a payload is
copied to its place in `RX_BUF` and every other byte there stays (42_transport.md R240, R241, R242). -/
def Obligations.ReceiveReassembles : Prop :=
  (∀ addr len, decode ⟨0x53000000, addr, len⟩ = .ok (.tlRecv addr len)) ∧
  ∀ addr len s, s.halt = false →
    (s.tls = .closed → Answers (.tlRecv addr len) s 0x000) ∧
    (s.tls ≠ .closed → len.toNat < 2 → Answers (.tlRecv addr len) s (tlAnswer s.tls true)) ∧
    (s.tls ≠ .closed → 2 ≤ len.toNat → s.cfg.bufSize < addr.toNat + len.toNat →
      Raises (.tlRecv addr len) s 0x07 (addr.setWidth 64)) ∧
    (s.tls ≠ .closed → 2 ≤ len.toNat → addr.toNat + len.toNat ≤ s.cfg.bufSize →
      ∀ hdr : Byte, hdr = s.buf.read addr.toNat →
      ∀ seq : Seq, seq.toNat = hdr.toNat % 64 →
      ∀ n, n = len.toNat - 1 →
      let dropped := exec (.tlRecv addr len) s = .next { s with
        rx := { s.rx with active := false, len := 0 }, rsp := some ⟨0x00, tlAnswer s.tls true, []⟩ }
      let accepted := fun base =>
        (s.cfg.fragSize < base + n → dropped) ∧
        (base + n ≤ s.cfg.fragSize → ∃ m : Memory,
          (∀ k < n, m.read (base + k) = s.buf.read (addr.toNat + 1 + k)) ∧
          (∀ a, a < base ∨ base + n ≤ a → m.read a = s.rx.buf.read a) ∧
          (hdr.getLsbD 7 = false →
            exec (.tlRecv addr len) s = .next { s with
              rx := ⟨m, base + n, seq, true⟩, rsp := some ⟨0x00, tlAnswer s.tls true, []⟩ }) ∧
          (hdr.getLsbD 7 = true →
            exec (.tlRecv addr len) s = .next { s with
              rx := ⟨m, 0, seq, false⟩
              rsp := some ⟨0x00, tlAnswer s.tls true, [.upperReceive ((List.range (base + n)).map m.read)]⟩ }))
      (hdr.getLsbD 6 = true → accepted 0) ∧
      (hdr.getLsbD 6 = false → s.rx.active = false → Answers (.tlRecv addr len) s (tlAnswer s.tls true)) ∧
      (hdr.getLsbD 6 = false → s.rx.active = true → seq.toNat ≠ (s.rx.seq.toNat + 1) % 64 → dropped) ∧
      (hdr.getLsbD 6 = false → s.rx.active = true → seq.toNat = (s.rx.seq.toNat + 1) % 64 → accepted s.rx.len))

/-- The segmentation law: an accepted `TL.SEND` of `N` bytes answered by `TL.SUCC` each time emits `ceil(N / S)`
segments, one per command, each with the bytes, the FIR and FIN bits and the sequence number the law gives it; the last
`TL.SUCC` emits UpperSendSuccess (42_transport.md R244). The spec marks the law as derived from R236 to R238. -/
def Obligations.SegmentationLaw : Prop :=
  ∀ s addr len, s.halt = false → s.tls = .ready → 1 ≤ s.cfg.segPayload → 1 ≤ len.toNat →
    len.toNat ≤ s.cfg.fragSize → addr.toNat + len.toNat ≤ s.cfg.bufSize →
    let count := (len.toNat + s.cfg.segPayload - 1) / s.cfg.segPayload
    let apdu := (List.range len.toNat).map fun k => s.buf.read (addr.toNat + k)
    let states := statesAfter (.tlSend addr len :: List.replicate count .tlSucc) s
    states.map (fun t => t.events) =
      (apduSegments s.cfg.segPayload s.tx.seq.toNat apdu).map (fun b => [Event.lowerSend b]) ++ [[.upperSendSuccess]] ∧
    ∃ t, states.getLast? = some t ∧ t.tls = .ready ∧ t.tx.seq.toNat = (s.tx.seq.toNat + count) % 64

/-- The reassembly law: feeding the segments of an APDU in order delivers exactly the APDU with the last of them and
nothing before; leaving out one middle segment delivers nothing; either way no reassembly is in progress afterwards
(42_transport.md R245). The spec marks the law as derived from R241. -/
def Obligations.ReassemblyLaw : Prop :=
  ∀ s addr apdu size seq, s.halt = false → s.tls ≠ .closed → s.rx.active = false → 1 ≤ size → size < 2 ^ 32 →
    addr.toNat + size + 1 ≤ s.cfg.bufSize → 1 ≤ apdu.length → apdu.length ≤ s.cfg.fragSize →
    let segments := apduSegments size seq apdu
    let states := statesAfterDelivery addr segments s
    states.map (fun t => t.events) = List.replicate (segments.length - 1) [] ++ [[.upperReceive apdu]] ∧
    (∃ t, states.getLast? = some t ∧ t.rx.active = false) ∧
    ∀ k, 1 ≤ k → k + 1 < segments.length →
      let gapped := statesAfterDelivery addr (segments.eraseIdx k) s
      gapped.map (fun t => t.events) = List.replicate (segments.length - 1) [] ∧
      ∃ t, gapped.getLast? = some t ∧ t.rx.active = false

/-- The DCB leaves Sending only by the success of the last segment, by `TL.FAIL`, by `TL.DOWN` or by reset; `TL.DOWN`
says so to the upper layer with UpperLayerDown alone, and a completion that arrives afterwards is a no-op
(42_transport.md R246). -/
def Obligations.OnlyCompletionOrDownEndsASend : Prop :=
  (∀ i s t, s.tls = .sending → exec i s = .next t → t.tls ≠ .sending →
    (i = .tlSucc ∧ s.tx.len ≤ t.tx.sent ∧ t.events = [.upperSendSuccess]) ∨
    (i = .tlFail ∧ t.events = [.upperSendFailure]) ∨ (i = .tlDown ∧ t.events = [.upperLayerDown]) ∨
    (i = .sysReset ∧ t.events = [])) ∧
  ∀ s, s.halt = false → s.tls = .sending →
    ∃ t, exec .tlDown s = .next t ∧ t.events = [.upperLayerDown] ∧
      exec .tlSucc t = .next { t with rsp := some ⟨0x00, 0x000, []⟩ } ∧
      exec .tlFail t = .next { t with rsp := some ⟨0x00, 0x000, []⟩ }

/-! ## The object unit -/

/-- `OH.PARSE` on each row of the qualifier table, with its errors in their order (43_object_iterator.md R284;
30_encoding.md R106). All qualifiers but one are passages the spec marks as general knowledge (log 10). -/
def Obligations.HeaderParseFillsHeaderInfo : Prop :=
  (∀ (otype : ObjType) (osize : Half) addr opb,
    decode ⟨0x60000000 ||| (if otype = .bitfield then 0x10000 else 0) ||| osize.setWidth 32, addr, opb⟩ =
      .ok (.ohParse otype osize addr)) ∧
  ∀ otype osize addr s, s.halt = false →
    let i := Instr.ohParse otype osize addr
    let a := addr.toNat
    (s.cfg.bufSize < a + 3 → Raises i s 0x07 (addr.setWidth 64)) ∧
    (a + 3 ≤ s.cfg.bufSize → (∀ e ∈ qualifierTable, e.qual ≠ s.buf.read (a + 2)) →
      Raises i s 0x04 ((s.buf.read (a + 2)).setWidth 64)) ∧
    (a + 3 ≤ s.cfg.bufSize → ∀ e ∈ qualifierTable, e.qual = s.buf.read (a + 2) →
      (s.cfg.bufSize < a + e.hdrlen → Raises i s 0x07 (BitVec.ofNat 64 (a + 3))) ∧
      (a + e.hdrlen ≤ s.cfg.bufSize →
        (e.htype = .ranged →
          ∀ start, start = littleEndian s.buf (a + 3) e.rw →
          ∀ stop, stop = littleEndian s.buf (a + 3 + e.rw) e.rw →
          (stop < start → Raises i s 0x05 (BitVec.ofNat 64 (stop * 2 ^ 32 + start))) ∧
          (start ≤ stop → Parses otype osize addr s e start (stop - start + 1))) ∧
        (e.htype = .all → Parses otype osize addr s e 0 0) ∧
        (e.htype = .count ∨ e.htype = .countIndex →
          Parses otype osize addr s e 0 (littleEndian s.buf (a + 3) e.rw))))

/-- `OI.INIT`: the two refused combinations, the empty iterator, the first object, and a first prefix outside `BUF`
(43_object_iterator.md R285). The byte order of an index prefix is a passage the spec marks as general knowledge (log
10). -/
def Obligations.IteratorInitStartsAtTheFirstObject : Prop :=
  (∀ addr opb, decode ⟨0x61000000, addr, opb⟩ = .ok (.oiInit false addr)) ∧
  (∀ addr opb, decode ⟨0x61000001, addr, opb⟩ = .ok (.oiInit true addr)) ∧
  ∀ hasdata addr s, s.halt = false →
    (s.hi.pfx ≠ .none → hasdata = false ∨ s.hi.otype = .bitfield →
      Raises (.oiInit hasdata addr) s 0x01 (s.hi.qual.setWidth 64)) ∧
    (s.hi.pfx = .none ∨ (hasdata = true ∧ s.hi.otype = .fixed) →
      ∀ p, p = (if hasdata then addr.toNat else 0) →
      (s.hi.count = 0 →
        exec (.oiInit hasdata addr) s = .next { s with
          it := ⟨s.hi, 0, hasdata, BitVec.ofNat 64 p, BitVec.ofNat 64 (p + s.hi.pfx.bytes), 0, s.hi.start⟩
          rsp := some ⟨0x00, 0, []⟩ }) ∧
      (0 < s.hi.count → prefixInside s s.hi p →
        exec (.oiInit hasdata addr) s = .next { s with
          it := iteratorAt s.buf s.hi hasdata p 0, rsp := some ⟨0x00, BitVec.ofNat 64 s.hi.count, []⟩ }) ∧
      (0 < s.hi.count → ¬prefixInside s s.hi p → Raises (.oiInit hasdata addr) s 0x07 (BitVec.ofNat 64 p)))

/-- `OI.HASDATA`, `OI.COUNT` and `OI.ISEND` answer from `IT` and change nothing (43_object_iterator.md R286, R291,
R292). -/
def Obligations.IteratorQueriesAnswerFromIt : Prop :=
  PlainWord 0x62000000 .oiHasdata ∧ PlainWord 0x67000000 .oiCount ∧ PlainWord 0x68000000 .oiIsend ∧
  ∀ s, s.halt = false →
    (s.it.hasData = true → Answers .oiHasdata s 1) ∧
    (s.it.hasData = false → Answers .oiHasdata s 0) ∧
    Answers .oiCount s (BitVec.ofNat 64 s.it.h.count) ∧
    (s.it.h.count ≤ s.it.n → Answers .oiIsend s 1) ∧
    (s.it.n < s.it.h.count → Answers .oiIsend s 0)

/-- `OI.DEREF` answers the payload's address and `OI.INFO` the index and the start; without data or past the end they
raise, the missing data first (43_object_iterator.md R287, R288). -/
def Obligations.IteratorAccessIsBounded : Prop :=
  PlainWord 0x63000000 .oiDeref ∧ PlainWord 0x64000000 .oiInfo ∧
  ∀ s, s.halt = false →
    (s.it.hasData = false → Raises .oiDeref s 0x02 (BitVec.ofNat 64 s.it.n)) ∧
    (s.it.hasData = true → s.it.h.count ≤ s.it.n → Raises .oiDeref s 0x03 (BitVec.ofNat 64 s.it.n)) ∧
    (s.it.hasData = true → s.it.n < s.it.h.count → Answers .oiDeref s s.it.pos) ∧
    (s.it.h.count ≤ s.it.n → Raises .oiInfo s 0x03 (BitVec.ofNat 64 s.it.n)) ∧
    (s.it.n < s.it.h.count →
      Answers .oiInfo s (BitVec.ofNat 64 (s.it.index.toNat + s.it.start.toNat * 2 ^ 32)))

/-- `OI.INC` advances `IT` and leaves `ITS` (43_object_iterator.md R289). The byte order of an index prefix is a
passage the spec marks as general knowledge (log 10). -/
def Obligations.IncrementAdvancesTheIterator : Prop :=
  PlainWord 0x65000000 .oiInc ∧ ∀ s, s.halt = false → AdvanceRule .oiInc s s.its

/-- `OI.PINC` advances `IT` as `OI.INC` does and puts the iterator before the advance into `ITS` (43_object_iterator.md
R290). The byte order of an index prefix is a passage the spec marks as general knowledge (log 10). -/
def Obligations.PostIncrementKeepsASnapshot : Prop :=
  PlainWord 0x66000000 .oiPinc ∧ ∀ s, s.halt = false → AdvanceRule .oiPinc s s.it

/-- `OI.SWAP` exchanges `IT` and `ITS`, and two of them in a row restore both (43_object_iterator.md R293). -/
def Obligations.SwapExchangesIteratorAndSnapshot : Prop :=
  PlainWord 0x69000000 .oiSwap ∧
  (∀ s, s.halt = false → exec .oiSwap s = .next { s with it := s.its, its := s.it, rsp := some ⟨0x00, 0, []⟩ }) ∧
  ∀ s, s.halt = false → ∃ t u, exec .oiSwap s = .next t ∧ exec .oiSwap t = .next u ∧ u.it = s.it ∧ u.its = s.its

/-- The closed form of the cursor: after `OI.INIT` and `k` advances the iterator stands where the law says, exactly
`COUNT` advances succeed, the `COUNT`-th answers 1 and the next raises (43_object_iterator.md R296). The premise on
`BUF` puts every index prefix of a COUNT_INDEX header inside it. The spec marks the law as derived from R285 and R289;
the byte order of a prefix is a passage it marks as general knowledge (log 10). -/
def Obligations.CursorHasItsClosedForm : Prop :=
  ∀ s hasdata addr steps, s.halt = false → s.cfg.legal = true → s.ObjectsLegal →
    s.hi.pfx = .none ∨ (hasdata = true ∧ s.hi.otype = .fixed) →
    (s.hi.htype = .countIndex →
      ∀ k < s.hi.count, addr.toNat + k * (s.hi.pfx.bytes + s.hi.osize.toNat) + s.hi.pfx.bytes ≤ s.cfg.bufSize) →
    (∀ i ∈ steps, i = .oiInc ∨ i = .oiPinc) →
    let states := statesAfter (.oiInit hasdata addr :: steps) s
    states.length = steps.length + 1 ∧
    ∀ k t, states[k]? = some t →
      (k < s.hi.count → CursorAt s.buf s.hi hasdata addr.toNat k t.it) ∧
      (1 ≤ k → k < s.hi.count → t.rsp = some ⟨0x00, 0, []⟩) ∧
      (1 ≤ k → k = s.hi.count → t.rsp = some ⟨0x00, 1, []⟩ ∧ t.it.n = k) ∧
      (1 ≤ k → s.hi.count < k → t.rsp = some ⟨0x03, 0, []⟩ ∧ t.it.n = s.hi.count)

/-- Forward only: no command but `OI.INIT`, `OI.SWAP` and reset decreases the object number or moves the cursor back
(43_object_iterator.md R297). The spec marks the law as derived from R285 to R293. -/
def Obligations.IteratorOnlyMovesForward : Prop :=
  ∀ i s t, s.ObjectsLegal → exec i s = .next t → i ≠ .oiSwap → i ≠ .sysReset → (∀ hasdata addr, i ≠ .oiInit hasdata addr) →
    s.it.n ≤ t.it.n ∧ s.it.pfxPos.toNat ≤ t.it.pfxPos.toNat ∧ s.it.pos.toNat ≤ t.it.pos.toNat

/-! ## The system unit and reset -/

/-- `SYS.STAT` answers the status word and `SYS.FINFO` the information word, in every state, halted or not, and they
change nothing (44_system.md R332, R334). -/
def Obligations.StatusAndFaultInformation : Prop :=
  PlainWord 0x70000000 .sysStat ∧ PlainWord 0x72000000 .sysFinfo ∧
  ∀ s, Answers .sysStat s (BitVec.ofNat 64 (tlsNumber s.tls + s.halt.toNat * 4 + s.rx.active.toNat * 8 +
      s.fsr.fcode.toNat * 2 ^ 8 + s.fsr.fopc.toNat * 2 ^ 16 + s.tx.seq.toNat * 2 ^ 24 + s.rx.seq.toNat * 2 ^ 32)) ∧
    Answers .sysFinfo s s.fsr.finfo

/-- `SYS.RESET` in every state, halted or not: every register takes its reset value, `BUF` and the bytes of `RX_BUF`
stay, no event is emitted, and what is left is the power-on state with those memories (44_system.md R333;
70_reset_and_hazards.md R382). That pending actions stay is the model's choice (log 1). -/
def Obligations.ResetRestoresThePowerOnRegisters : Prop :=
  PlainWord 0x71000000 .sysReset ∧
  ∀ s, exec .sysReset s = .next { State.powerOn s.cfg s.buf s.rx.buf with inp := s.inp, rsp := some ⟨0x00, 0, []⟩ }

/-- After power-on every register has the value R36 gives it, whatever the parameters and the content of the memories;
a status word read at once is 0 (10_state.md R36; 44_system.md R332). -/
def Obligations.PowerOnRegisters : Prop :=
  ∀ cfg buf rxBuf, let s := State.powerOn cfg buf rxBuf
    s.halt = false ∧ s.fsr = ⟨0, 0, 0⟩ ∧ s.lh = ⟨0, 0, 0, 0⟩ ∧ s.tls = .closed ∧ s.tx = ⟨0, 0, 0, 0⟩ ∧
    s.rx.len = 0 ∧ s.rx.seq = 0 ∧ s.rx.active = false ∧ s.hi = HeaderInfo.zero ∧ s.it = Iter.zero ∧
    s.its = Iter.zero ∧ s.buf = buf ∧ Answers .sysStat s 0

/-! ## Invariants that every step keeps -/

/-- Every step keeps the two memories in canonical form and inside `BUF` and `RX_BUF` (10_state.md R30, R34). -/
def Obligations.StepKeepsMemoriesLegal : Prop := ∀ s t, s.MemoriesLegal → step s = .next t → t.MemoriesLegal

/-- Every step keeps the fault registers and the response legal: HALTED is never latched, an empty latch is all zero, a
halted DCB has a latched error, an error answers nothing (10_state.md R24; 30_encoding.md R91; 60_exceptions.md R341,
R345). That the response stands beside the state is the model's choice (log 2). -/
def Obligations.StepKeepsFaultsLegal : Prop := ∀ s t, s.FaultsLegal → step s = .next t → t.FaultsLegal

/-- Every step keeps the transmitter's invariant: while Sending an unfinished APDU is held that lies inside `BUF`
(10_state.md R28, R29). -/
def Obligations.StepKeepsTransmitterLegal : Prop :=
  ∀ s t, s.TransmitterLegal → step s = .next t → t.TransmitterLegal

/-- Every step keeps the receiver's invariant: `RX_LEN` is 0 while idle and 1 to `FRAG_SIZE` while a reassembly is in
progress (10_state.md R30). -/
def Obligations.StepKeepsReceiverLegal : Prop := ∀ s t, s.ReceiverLegal → step s = .next t → t.ReceiverLegal

/-- Every step keeps `HI`, `IT` and `ITS` legal: a header is the reset value or the parse of a header, an iterator never
passes its end, its cursor never wraps, its index is the one its header gives it (10_state.md R31, R32;
43_object_iterator.md R281 to R283). -/
def Obligations.StepKeepsObjectsLegal : Prop := ∀ s t, s.ObjectsLegal → step s = .next t → t.ObjectsLegal

/-- The power-on state is legal for all legal parameters and all memories in canonical form and inside their bounds,
and so is the state after reset. The parameters and the two memories of `State.reset` are the model's choices (logs 3 to
5). -/
def Obligations.PowerOnStateIsLegal : Prop :=
  (∀ cfg buf rxBuf, cfg.legal = true → buf.wf = true → buf.below cfg.bufSize = true → rxBuf.wf = true →
    rxBuf.below cfg.fragSize = true → (State.powerOn cfg buf rxBuf).Legal) ∧
  State.reset.Legal

/-- The bytes of `RX_BUF` from `RX_LEN` on are never observed: two states that differ in nothing else answer every
command alike and go on to two states that again differ in nothing else (10_state.md R30; 70_reset_and_hazards.md
R381). -/
def Obligations.SpareReceiverBytesAreUnobservable : Prop :=
  ∀ i s s', AgreeButSpareRx s s' → ∃ t t', exec i s = .next t ∧ exec i s' = .next t' ∧ t.rsp = t'.rsp ∧
    AgreeButSpareRx t t'

/-! ## Ports and parameters -/

/-- The parameters, the frame and the response are arguments and output, not state: the parameters, the frame and the
DCB's state decide the next state of the DCB and its response, whatever was answered before and whatever the host does
next; a step that runs no command has no response and keeps none (10_state.md R20, R35; 00_scope.md R8, R9). How the
boundary is laid out beside the state, and the steps that run no command, are the model's choices (logs 1 to 3, 6 and
8). -/
def Obligations.PortsAndParametersAreNotState : Prop :=
  (∀ (c : Config) (f : Frame) (d : Dcb), ∃ (d' : Dcb) (r : Response), ∀ rest rsp,
    step ⟨d, ⟨c, .command f :: rest, rsp⟩⟩ = .next ⟨d', ⟨c, rest, some r⟩⟩) ∧
  (∀ (c : Config) (i : Instr) (d : Dcb), ∃ (d' : Dcb) (r : Response), ∀ inp rsp,
    exec i ⟨d, ⟨c, inp, rsp⟩⟩ = .next ⟨d', ⟨c, inp, some r⟩⟩) ∧
  (∀ (c : Config) (addr : Nat) (bytes : List Byte) (d : Dcb), addr + bytes.length ≤ c.bufSize →
    ∃ m, ∀ rest rsp,
      step ⟨d, ⟨c, .store addr bytes :: rest, rsp⟩⟩ = .next ⟨{ d with buf := m }, ⟨c, rest, none⟩⟩) ∧
  ∀ (c : Config) (d : Dcb) (rsp : Option Response), step ⟨d, ⟨c, [], rsp⟩⟩ = .next ⟨d, ⟨c, [], none⟩⟩
end

