-- ==== Sys2Proof/Laws/Decode.lean ====
section
/-! SUPPORT. The laws of the command word: its fields, and what the decoder gives for each opcode, so that no later
proof unfolds the decoder. -/

namespace Sys2Proof

/-! The two fields of a word -/

@[simp] theorem opcodeField_append (o : Byte) (a : BitVec 24) : opcodeField (o ++ a) = o := by
  apply BitVec.eq_of_getLsbD_eq
  intro k hk
  simp only [opcodeField, BitVec.getLsbD_extractLsb', BitVec.getLsbD_append]
  simp [hk]

@[simp] theorem argField_append (o : Byte) (a : BitVec 24) : argField (o ++ a) = a := by
  apply BitVec.eq_of_getLsbD_eq
  intro k hk
  simp only [argField, BitVec.getLsbD_extractLsb', BitVec.getLsbD_append]
  simp [hk]

theorem getLsbD_word (o : Byte) (a : BitVec 24) {k : Nat} (h : k < 24) : (o ++ a).getLsbD k = a.getLsbD k := by
  rw [BitVec.getLsbD_append, if_pos h]

theorem extractLsb'_word (o : Byte) (a : BitVec 24) {k n : Nat} (h : k + n ≤ 24) :
    (o ++ a).extractLsb' k n = a.extractLsb' k n := by
  apply BitVec.eq_of_getLsbD_eq
  intro j hj
  rw [BitVec.getLsbD_extractLsb', BitVec.getLsbD_extractLsb', getLsbD_word _ _ (by omega)]

/-- A word is its opcode and its `ARG` field. -/
theorem word_eq (cw : Word) : cw = opcodeField cw ++ argField cw := by
  apply BitVec.eq_of_getLsbD_eq
  intro k hk
  rw [BitVec.getLsbD_append]
  by_cases h : k < 24
  · simp [h, argField]
  · rw [if_neg h, opcodeField, BitVec.getLsbD_extractLsb', decide_eq_true (by omega), Bool.true_and]
    congr 1
    omega

theorem withArg_eq_ok {named : BitVec 24} {cw : Word} {i j : Instr} :
    withArg named cw i = .ok j ↔ argField cw &&& ~~~named = 0 ∧ i = j := by
  unfold withArg
  by_cases h : argField cw &&& ~~~named = 0
  · rw [if_pos h]
    exact ⟨fun e => ⟨h, by injection e⟩, fun e => by rw [e.2]⟩
  · rw [if_neg h]
    exact ⟨fun e => (by cases e), fun e => absurd e.1 h⟩

theorem noArg_eq_ok {cw : Word} {i j : Instr} : noArg cw i = .ok j ↔ argField cw = 0 ∧ i = j := by
  rw [noArg, withArg_eq_ok, show (0 : BitVec 24) = 0#24 from rfl]
  have h : argField cw &&& ~~~(0#24) = argField cw := by rw [BitVec.not_zero, BitVec.and_allOnes]
  rw [h]

/-! What the decoder gives for each opcode -/

theorem decode_rdU8 {f : Frame} (h : opcodeField f.cw = 0x00) : decode f = noArg f.cw (.rdU8 f.opa) := by
  unfold decode; rw [h]; rfl

theorem decode_rdI8 {f : Frame} (h : opcodeField f.cw = 0x01) : decode f = noArg f.cw (.rdI8 f.opa) := by
  unfold decode; rw [h]; rfl

theorem decode_rdU16LE {f : Frame} (h : opcodeField f.cw = 0x02) : decode f = noArg f.cw (.rdU16LE f.opa) := by
  unfold decode; rw [h]; rfl

theorem decode_rdU16BE {f : Frame} (h : opcodeField f.cw = 0x12) : decode f = noArg f.cw (.rdU16BE f.opa) := by
  unfold decode; rw [h]; rfl

theorem decode_rdI16LE {f : Frame} (h : opcodeField f.cw = 0x03) : decode f = noArg f.cw (.rdI16LE f.opa) := by
  unfold decode; rw [h]; rfl

theorem decode_rdI16BE {f : Frame} (h : opcodeField f.cw = 0x13) : decode f = noArg f.cw (.rdI16BE f.opa) := by
  unfold decode; rw [h]; rfl

theorem decode_rdU32LE {f : Frame} (h : opcodeField f.cw = 0x04) : decode f = noArg f.cw (.rdU32LE f.opa) := by
  unfold decode; rw [h]; rfl

theorem decode_rdU32BE {f : Frame} (h : opcodeField f.cw = 0x14) : decode f = noArg f.cw (.rdU32BE f.opa) := by
  unfold decode; rw [h]; rfl

theorem decode_rdI32LE {f : Frame} (h : opcodeField f.cw = 0x05) : decode f = noArg f.cw (.rdI32LE f.opa) := by
  unfold decode; rw [h]; rfl

theorem decode_rdI32BE {f : Frame} (h : opcodeField f.cw = 0x15) : decode f = noArg f.cw (.rdI32BE f.opa) := by
  unfold decode; rw [h]; rfl

theorem decode_rdU48LE {f : Frame} (h : opcodeField f.cw = 0x06) : decode f = noArg f.cw (.rdU48LE f.opa) := by
  unfold decode; rw [h]; rfl

theorem decode_rdU48BE {f : Frame} (h : opcodeField f.cw = 0x16) : decode f = noArg f.cw (.rdU48BE f.opa) := by
  unfold decode; rw [h]; rfl

theorem decode_rdU64LE {f : Frame} (h : opcodeField f.cw = 0x08) : decode f = noArg f.cw (.rdU64LE f.opa) := by
  unfold decode; rw [h]; rfl

theorem decode_rdU64BE {f : Frame} (h : opcodeField f.cw = 0x18) : decode f = noArg f.cw (.rdU64BE f.opa) := by
  unfold decode; rw [h]; rfl

theorem decode_rdI64LE {f : Frame} (h : opcodeField f.cw = 0x09) : decode f = noArg f.cw (.rdI64LE f.opa) := by
  unfold decode; rw [h]; rfl

theorem decode_rdI64BE {f : Frame} (h : opcodeField f.cw = 0x19) : decode f = noArg f.cw (.rdI64BE f.opa) := by
  unfold decode; rw [h]; rfl

theorem decode_rdF32LE {f : Frame} (h : opcodeField f.cw = 0x0A) : decode f = noArg f.cw (.rdF32LE f.opa) := by
  unfold decode; rw [h]; rfl

theorem decode_rdF32BE {f : Frame} (h : opcodeField f.cw = 0x1A) : decode f = noArg f.cw (.rdF32BE f.opa) := by
  unfold decode; rw [h]; rfl

theorem decode_rdF64LE {f : Frame} (h : opcodeField f.cw = 0x0B) : decode f = noArg f.cw (.rdF64LE f.opa) := by
  unfold decode; rw [h]; rfl

theorem decode_rdF64BE {f : Frame} (h : opcodeField f.cw = 0x1B) : decode f = noArg f.cw (.rdF64BE f.opa) := by
  unfold decode; rw [h]; rfl

theorem decode_wrU8 {f : Frame} (h : opcodeField f.cw = 0x20) : decode f = noArg f.cw (.wrU8 f.opa f.opb) := by
  unfold decode; rw [h]; rfl

theorem decode_wrI8 {f : Frame} (h : opcodeField f.cw = 0x21) : decode f = noArg f.cw (.wrI8 f.opa f.opb) := by
  unfold decode; rw [h]; rfl

theorem decode_wrU16LE {f : Frame} (h : opcodeField f.cw = 0x22) : decode f = noArg f.cw (.wrU16LE f.opa f.opb) := by
  unfold decode; rw [h]; rfl

theorem decode_wrU16BE {f : Frame} (h : opcodeField f.cw = 0x32) : decode f = noArg f.cw (.wrU16BE f.opa f.opb) := by
  unfold decode; rw [h]; rfl

theorem decode_wrI16LE {f : Frame} (h : opcodeField f.cw = 0x23) : decode f = noArg f.cw (.wrI16LE f.opa f.opb) := by
  unfold decode; rw [h]; rfl

theorem decode_wrI16BE {f : Frame} (h : opcodeField f.cw = 0x33) : decode f = noArg f.cw (.wrI16BE f.opa f.opb) := by
  unfold decode; rw [h]; rfl

theorem decode_wrU32LE {f : Frame} (h : opcodeField f.cw = 0x24) : decode f = noArg f.cw (.wrU32LE f.opa f.opb) := by
  unfold decode; rw [h]; rfl

theorem decode_wrU32BE {f : Frame} (h : opcodeField f.cw = 0x34) : decode f = noArg f.cw (.wrU32BE f.opa f.opb) := by
  unfold decode; rw [h]; rfl

theorem decode_wrI32LE {f : Frame} (h : opcodeField f.cw = 0x25) : decode f = noArg f.cw (.wrI32LE f.opa f.opb) := by
  unfold decode; rw [h]; rfl

theorem decode_wrI32BE {f : Frame} (h : opcodeField f.cw = 0x35) : decode f = noArg f.cw (.wrI32BE f.opa f.opb) := by
  unfold decode; rw [h]; rfl

theorem decode_wrU48LE {f : Frame} (h : opcodeField f.cw = 0x26) : decode f = noArg f.cw (.wrU48LE f.opa f.opb) := by
  unfold decode; rw [h]; rfl

theorem decode_wrU48BE {f : Frame} (h : opcodeField f.cw = 0x36) : decode f = noArg f.cw (.wrU48BE f.opa f.opb) := by
  unfold decode; rw [h]; rfl

theorem decode_wrU64LE {f : Frame} (h : opcodeField f.cw = 0x28) : decode f = noArg f.cw (.wrU64LE f.opa f.opb) := by
  unfold decode; rw [h]; rfl

theorem decode_wrU64BE {f : Frame} (h : opcodeField f.cw = 0x38) : decode f = noArg f.cw (.wrU64BE f.opa f.opb) := by
  unfold decode; rw [h]; rfl

theorem decode_wrI64LE {f : Frame} (h : opcodeField f.cw = 0x29) : decode f = noArg f.cw (.wrI64LE f.opa f.opb) := by
  unfold decode; rw [h]; rfl

theorem decode_wrI64BE {f : Frame} (h : opcodeField f.cw = 0x39) : decode f = noArg f.cw (.wrI64BE f.opa f.opb) := by
  unfold decode; rw [h]; rfl

theorem decode_wrF32LE {f : Frame} (h : opcodeField f.cw = 0x2A) : decode f = noArg f.cw (.wrF32LE f.opa f.opb) := by
  unfold decode; rw [h]; rfl

theorem decode_wrF32BE {f : Frame} (h : opcodeField f.cw = 0x3A) : decode f = noArg f.cw (.wrF32BE f.opa f.opb) := by
  unfold decode; rw [h]; rfl

theorem decode_wrF64LE {f : Frame} (h : opcodeField f.cw = 0x2B) : decode f = noArg f.cw (.wrF64LE f.opa f.opb) := by
  unfold decode; rw [h]; rfl

theorem decode_wrF64BE {f : Frame} (h : opcodeField f.cw = 0x3B) : decode f = noArg f.cw (.wrF64BE f.opa f.opb) := by
  unfold decode; rw [h]; rfl

theorem decode_lhSet {f : Frame} (h : opcodeField f.cw = 0x40) :
    decode f = withArg 0x00FFFF#24 f.cw
      (.lhSet (f.cw.extractLsb' 8 8) (f.cw.extractLsb' 0 8) (f.opa.extractLsb' 0 16) (f.opa.extractLsb' 16 16)) := by
  unfold decode; rw [h]; rfl

theorem decode_lhGet {f : Frame} (h : opcodeField f.cw = 0x41) : decode f = noArg f.cw .lhGet := by
  unfold decode; rw [h]; rfl

theorem decode_lhRead {f : Frame} (h : opcodeField f.cw = 0x42) : decode f = noArg f.cw (.lhRead f.opa) := by
  unfold decode; rw [h]; rfl

theorem decode_lhWrite {f : Frame} (h : opcodeField f.cw = 0x43) : decode f = noArg f.cw (.lhWrite f.opa) := by
  unfold decode; rw [h]; rfl

theorem decode_lhCtrl {f : Frame} (h : opcodeField f.cw = 0x44) :
    decode f = withArg 0x0007FF#24 f.cw
      (.lhCtrl (f.cw.getLsbD 10) (f.cw.getLsbD 9) (f.cw.getLsbD 8) (f.cw.extractLsb' 0 8)) := by
  unfold decode; rw [h]; rfl

theorem decode_lhChfcb {f : Frame} (h : opcodeField f.cw = 0x45) :
    decode f = withArg 0x000001#24 f.cw (.lhChfcb (f.cw.getLsbD 0)) := by
  unfold decode; rw [h]; rfl

theorem decode_lhFunc {f : Frame} (h : opcodeField f.cw = 0x46) : decode f = noArg f.cw .lhFunc := by
  unfold decode; rw [h]; rfl

theorem decode_crcCalc {f : Frame} (h : opcodeField f.cw = 0x47) : decode f = noArg f.cw (.crcCalc f.opa f.opb) := by
  unfold decode; rw [h]; rfl

theorem decode_tlUp {f : Frame} (h : opcodeField f.cw = 0x50) : decode f = noArg f.cw .tlUp := by
  unfold decode; rw [h]; rfl

theorem decode_tlDown {f : Frame} (h : opcodeField f.cw = 0x51) : decode f = noArg f.cw .tlDown := by
  unfold decode; rw [h]; rfl

theorem decode_tlSend {f : Frame} (h : opcodeField f.cw = 0x52) : decode f = noArg f.cw (.tlSend f.opa f.opb) := by
  unfold decode; rw [h]; rfl

theorem decode_tlRecv {f : Frame} (h : opcodeField f.cw = 0x53) : decode f = noArg f.cw (.tlRecv f.opa f.opb) := by
  unfold decode; rw [h]; rfl

theorem decode_tlSucc {f : Frame} (h : opcodeField f.cw = 0x54) : decode f = noArg f.cw .tlSucc := by
  unfold decode; rw [h]; rfl

theorem decode_tlFail {f : Frame} (h : opcodeField f.cw = 0x55) : decode f = noArg f.cw .tlFail := by
  unfold decode; rw [h]; rfl

theorem decode_ohParse {f : Frame} (h : opcodeField f.cw = 0x60) :
    decode f = withArg 0x01FFFF#24 f.cw
      (.ohParse (ObjType.ofBit (f.cw.getLsbD 16)) (f.cw.extractLsb' 0 16) f.opa) := by
  unfold decode; rw [h]; rfl

theorem decode_oiInit {f : Frame} (h : opcodeField f.cw = 0x61) :
    decode f = withArg 0x000001#24 f.cw (.oiInit (f.cw.getLsbD 0) f.opa) := by
  unfold decode; rw [h]; rfl

theorem decode_oiHasdata {f : Frame} (h : opcodeField f.cw = 0x62) : decode f = noArg f.cw .oiHasdata := by
  unfold decode; rw [h]; rfl

theorem decode_oiDeref {f : Frame} (h : opcodeField f.cw = 0x63) : decode f = noArg f.cw .oiDeref := by
  unfold decode; rw [h]; rfl

theorem decode_oiInfo {f : Frame} (h : opcodeField f.cw = 0x64) : decode f = noArg f.cw .oiInfo := by
  unfold decode; rw [h]; rfl

theorem decode_oiInc {f : Frame} (h : opcodeField f.cw = 0x65) : decode f = noArg f.cw .oiInc := by
  unfold decode; rw [h]; rfl

theorem decode_oiPinc {f : Frame} (h : opcodeField f.cw = 0x66) : decode f = noArg f.cw .oiPinc := by
  unfold decode; rw [h]; rfl

theorem decode_oiCount {f : Frame} (h : opcodeField f.cw = 0x67) : decode f = noArg f.cw .oiCount := by
  unfold decode; rw [h]; rfl

theorem decode_oiIsend {f : Frame} (h : opcodeField f.cw = 0x68) : decode f = noArg f.cw .oiIsend := by
  unfold decode; rw [h]; rfl

theorem decode_oiSwap {f : Frame} (h : opcodeField f.cw = 0x69) : decode f = noArg f.cw .oiSwap := by
  unfold decode; rw [h]; rfl

theorem decode_sysStat {f : Frame} (h : opcodeField f.cw = 0x70) : decode f = noArg f.cw .sysStat := by
  unfold decode; rw [h]; rfl

theorem decode_sysReset {f : Frame} (h : opcodeField f.cw = 0x71) : decode f = noArg f.cw .sysReset := by
  unfold decode; rw [h]; rfl

theorem decode_sysFinfo {f : Frame} (h : opcodeField f.cw = 0x72) : decode f = noArg f.cw .sysFinfo := by
  unfold decode; rw [h]; rfl

end Sys2Proof
end

