-- ==== Sys2Proof/Laws/Memory.lean ====
section
/-! SUPPORT. The laws of memory: what a read gives after each operation, and that each operation keeps the canonical
form and the bound. No law about a read needs the canonical form. -/

namespace Sys2Proof.Machine

open Sys2Proof

/-! One byte -/

@[simp] theorem Memory.read_nil (a : Nat) : Memory.read [] a = Memory.unwritten := rfl

theorem Memory.read_cons (k : Nat) (b : Byte) (m : Memory) (a : Nat) :
    Memory.read ((k, b) :: m) a = if k = a then b else Memory.read m a := rfl

theorem Memory.read_erase (m : Memory) (a b : Nat) :
    (m.erase a).read b = if b = a then Memory.unwritten else m.read b := by
  induction m with
  | nil => simp [Memory.erase]
  | cons e m ih =>
    obtain ⟨k, v⟩ := e
    by_cases hk : k = a
    · subst hk
      rw [Memory.erase, if_pos rfl, ih, Memory.read_cons]
      by_cases hb : b = k
      · simp [hb]
      · simp [hb, Ne.symm hb]
    · rw [Memory.erase, if_neg hk, Memory.read_cons, Memory.read_cons, ih]
      by_cases hb : b = a
      · subst hb; simp [hk]
      · simp [hb]

theorem Memory.read_insert (m : Memory) (a b : Nat) (v : Byte) (h : m.read a = Memory.unwritten)
    (hm : ∀ e ∈ m, e.1 ≠ a) : (m.insert a v).read b = if b = a then v else m.read b := by
  induction m with
  | nil =>
    by_cases hb : b = a
    · simp [Memory.insert, Memory.read_cons, hb]
    · simp [Memory.insert, Memory.read_cons, hb, Ne.symm hb]
  | cons e m ih =>
    obtain ⟨k, w⟩ := e
    have hka : k ≠ a := hm (k, w) (by simp)
    have ih' := ih (by simpa [Memory.read_cons, hka] using h) (fun e he => hm e (by simp [he]))
    by_cases hlt : a < k
    · by_cases hb : b = a
      · simp [Memory.insert, hlt, Memory.read_cons, hb]
      · simp [Memory.insert, hlt, Memory.read_cons, hb, Ne.symm hb]
    · by_cases hb : b = a
      · subst hb; simp [Memory.insert, hlt, Memory.read_cons, hka, ih']
      · simp [Memory.insert, hlt, Memory.read_cons, ih', hb]

theorem Memory.mem_erase_ne (m : Memory) (a : Nat) : ∀ e ∈ m.erase a, e.1 ≠ a := by
  induction m with
  | nil => simp [Memory.erase]
  | cons e m ih =>
    obtain ⟨k, v⟩ := e
    by_cases hk : k = a
    · simpa [Memory.erase, hk] using ih
    · simpa [Memory.erase, hk] using ih

/-- The law of memory: a byte stored is the byte read, and every other byte stays. -/
theorem Memory.read_write (m : Memory) (a b : Nat) (v : Byte) :
    (m.write a v).read b = if b = a then v else m.read b := by
  by_cases hv : v = Memory.unwritten
  · simp [Memory.write, hv, Memory.read_erase]
  · rw [Memory.write, if_neg hv,
      Memory.read_insert _ _ _ _ (by simp [Memory.read_erase]) (Memory.mem_erase_ne m a), Memory.read_erase]
    by_cases hb : b = a <;> simp [hb]

@[simp] theorem Memory.read_write_self (m : Memory) (a : Nat) (v : Byte) : (m.write a v).read a = v := by
  simp [Memory.read_write]

theorem Memory.read_write_ne (m : Memory) {a b : Nat} (v : Byte) (h : b ≠ a) :
    (m.write a v).read b = m.read b := by simp [Memory.read_write, h]

/-! Several bytes -/

theorem Memory.readBytes_eq_map (m : Memory) (a n : Nat) :
    m.readBytes a n = (List.range n).map fun i => m.read (a + i) := by
  induction n generalizing a with
  | zero => rfl
  | succ n ih =>
    simp only [Memory.readBytes, List.range_succ_eq_map, List.map_cons, List.map_map, Nat.add_zero, ih (a + 1)]
    congr 1
    apply List.map_congr_left
    intro i _
    simp only [Function.comp]
    congr 1
    omega

@[simp] theorem Memory.length_readBytes (m : Memory) (a n : Nat) : (m.readBytes a n).length = n := by
  simp [Memory.readBytes_eq_map]

theorem Memory.getD_readBytes (m : Memory) (a n i : Nat) (h : i < n) (d : Byte) :
    (m.readBytes a n).getD i d = m.read (a + i) := by
  simp [Memory.readBytes_eq_map, List.getD, h]

theorem Memory.readBytes_add (m : Memory) (a n k : Nat) :
    m.readBytes a (n + k) = m.readBytes a n ++ m.readBytes (a + n) k := by
  induction n generalizing a with
  | zero => simp [Memory.readBytes]
  | succ n ih =>
    rw [Nat.succ_add, Memory.readBytes, Memory.readBytes, List.cons_append, ih, Nat.add_assoc a 1 n, Nat.add_comm 1 n]

theorem Memory.readBytes_congr (m m' : Memory) (a n : Nat) (h : ∀ i < n, m.read (a + i) = m'.read (a + i)) :
    m.readBytes a n = m'.readBytes a n := by
  rw [Memory.readBytes_eq_map, Memory.readBytes_eq_map]
  apply List.map_congr_left
  intro i hi
  exact h i (by simpa using hi)

/-- What a read gives after bytes were stored from `a` on: the byte stored there, or what was there. -/
theorem Memory.read_writeBytes (m : Memory) (a b : Nat) (bs : List Byte) :
    (m.writeBytes a bs).read b = if a ≤ b ∧ b < a + bs.length then bs.getD (b - a) 0 else m.read b := by
  induction bs generalizing m a with
  | nil =>
    have h : ¬(a ≤ b ∧ b < a + 0) := by omega
    simp [Memory.writeBytes]
  | cons v bs ih =>
    rw [Memory.writeBytes, ih]
    by_cases h1 : a + 1 ≤ b ∧ b < a + 1 + bs.length
    · have h2 : a ≤ b ∧ b < a + (v :: bs).length := by simp only [List.length_cons]; omega
      have h3 : b - a = (b - (a + 1)) + 1 := by omega
      rw [if_pos h1, if_pos h2, h3, List.getD_cons_succ]
    · rw [if_neg h1, Memory.read_write]
      by_cases hb : b = a
      · have h2 : a ≤ b ∧ b < a + (v :: bs).length := by simp only [List.length_cons]; omega
        rw [if_pos hb, if_pos h2]
        simp [hb]
      · have h2 : ¬(a ≤ b ∧ b < a + (v :: bs).length) := by simp only [List.length_cons]; omega
        rw [if_neg hb, if_neg h2]

theorem Memory.read_writeBytes_in (m : Memory) (a i : Nat) (bs : List Byte) (h : i < bs.length) :
    (m.writeBytes a bs).read (a + i) = bs.getD i 0 := by
  rw [Memory.read_writeBytes, if_pos (by omega)]
  congr 1
  omega

theorem Memory.read_writeBytes_out (m : Memory) (a b : Nat) (bs : List Byte) (h : b < a ∨ a + bs.length ≤ b) :
    (m.writeBytes a bs).read b = m.read b := by
  rw [Memory.read_writeBytes, if_neg (by omega)]

theorem Memory.readBytes_writeBytes (m : Memory) (a : Nat) (bs : List Byte) :
    (m.writeBytes a bs).readBytes a bs.length = bs := by
  apply List.ext_getElem
  · simp
  · intro i h1 h2
    have := Memory.read_writeBytes_in m a i bs h2
    simp [Memory.readBytes_eq_map, this, List.getD, h2]

theorem Memory.readBytes_writeBytes_below (m : Memory) (a b n : Nat) (bs : List Byte) (h : b + n ≤ a) :
    (m.writeBytes a bs).readBytes b n = m.readBytes b n :=
  Memory.readBytes_congr _ _ _ _ fun i hi => Memory.read_writeBytes_out _ _ _ _ (.inl (by omega))

/-! The canonical form and the bound -/

theorem Memory.above_mono {a b : Nat} {m : Memory} (hab : a ≤ b) (h : m.above b = true) : m.above a = true := by
  induction m with
  | nil => rfl
  | cons e m ih =>
    obtain ⟨k, v⟩ := e
    simp only [Memory.above, Bool.and_eq_true, decide_eq_true_eq] at h ⊢
    exact ⟨by omega, ih h.2⟩

theorem Memory.above_erase {c : Nat} {m : Memory} (a : Nat) (h : m.above c = true) :
    (m.erase a).above c = true := by
  induction m with
  | nil => rfl
  | cons e m ih =>
    obtain ⟨k, v⟩ := e
    simp only [Memory.above, Bool.and_eq_true, decide_eq_true_eq] at h
    by_cases hk : k = a
    · simpa [Memory.erase, hk] using ih h.2
    · simpa [Memory.erase, hk, Memory.above, h.1] using ih h.2

theorem Memory.wf_erase {m : Memory} (a : Nat) (h : m.wf = true) : (m.erase a).wf = true := by
  induction m with
  | nil => rfl
  | cons e m ih =>
    obtain ⟨k, v⟩ := e
    simp only [Memory.wf, Bool.and_eq_true, decide_eq_true_eq] at h
    by_cases hk : k = a
    · simpa [Memory.erase, hk] using ih h.2
    · simp only [Memory.erase, hk, if_false, Memory.wf, Bool.and_eq_true, decide_eq_true_eq]
      exact ⟨⟨h.1.1, Memory.above_erase a h.1.2⟩, ih h.2⟩

theorem Memory.above_insert {c : Nat} {m : Memory} (a : Nat) (v : Byte) (hca : c < a) (h : m.above c = true) :
    (m.insert a v).above c = true := by
  induction m with
  | nil => simpa [Memory.insert, Memory.above] using hca
  | cons e m ih =>
    obtain ⟨k, w⟩ := e
    have h' := h
    simp only [Memory.above, Bool.and_eq_true, decide_eq_true_eq] at h
    by_cases hlt : a < k
    · simp only [Memory.insert, hlt, if_true]
      simp only [Memory.above, Bool.and_eq_true, decide_eq_true_eq]
      exact ⟨hca, h⟩
    · simp only [Memory.insert, hlt, if_false]
      simp only [Memory.above, Bool.and_eq_true, decide_eq_true_eq]
      exact ⟨h.1, ih h.2⟩

theorem Memory.wf_insert {m : Memory} (a : Nat) (v : Byte) (hv : v ≠ Memory.unwritten) (hm : ∀ e ∈ m, e.1 ≠ a)
    (h : m.wf = true) : (m.insert a v).wf = true := by
  induction m with
  | nil => simpa [Memory.insert, Memory.wf, Memory.above] using hv
  | cons e m ih =>
    obtain ⟨k, w⟩ := e
    have hk : k ≠ a := hm (k, w) (by simp)
    have h' := h
    simp only [Memory.wf, Bool.and_eq_true, decide_eq_true_eq] at h
    by_cases hlt : a < k
    · simp only [Memory.insert, hlt, if_true]
      rw [Memory.wf, Bool.and_eq_true, Bool.and_eq_true, decide_eq_true_eq]
      refine ⟨⟨hv, ?_⟩, h'⟩
      simp only [Memory.above, Bool.and_eq_true, decide_eq_true_eq]
      exact ⟨hlt, Memory.above_mono (Nat.le_of_lt hlt) h.1.2⟩
    · simp only [Memory.insert, hlt, if_false]
      rw [Memory.wf, Bool.and_eq_true, Bool.and_eq_true, decide_eq_true_eq]
      exact ⟨⟨h.1.1, Memory.above_insert a v (by omega) h.1.2⟩, ih (fun e he => hm e (by simp [he])) h.2⟩

/-- A store keeps the canonical form. -/
theorem Memory.wf_write {m : Memory} (a : Nat) (v : Byte) (h : m.wf = true) : (m.write a v).wf = true := by
  by_cases hv : v = Memory.unwritten
  · simpa [Memory.write, hv] using Memory.wf_erase a h
  · rw [Memory.write, if_neg hv]
    exact Memory.wf_insert a v hv (Memory.mem_erase_ne m a) (Memory.wf_erase a h)

theorem Memory.wf_writeBytes {m : Memory} (a : Nat) (bs : List Byte) (h : m.wf = true) :
    (m.writeBytes a bs).wf = true := by
  induction bs generalizing m a with
  | nil => exact h
  | cons b bs ih => exact ih (a + 1) (Memory.wf_write a b h)

theorem Memory.below_erase {n : Nat} {m : Memory} (a : Nat) (h : m.below n = true) :
    (m.erase a).below n = true := by
  induction m with
  | nil => rfl
  | cons e m ih =>
    obtain ⟨k, v⟩ := e
    simp only [Memory.below, Bool.and_eq_true, decide_eq_true_eq] at h
    by_cases hk : k = a
    · simpa [Memory.erase, hk] using ih h.2
    · simpa [Memory.erase, hk, Memory.below, h.1] using ih h.2

theorem Memory.below_insert {n : Nat} {m : Memory} (a : Nat) (v : Byte) (ha : a < n) (h : m.below n = true) :
    (m.insert a v).below n = true := by
  induction m with
  | nil => simpa [Memory.insert, Memory.below] using ha
  | cons e m ih =>
    obtain ⟨k, w⟩ := e
    have h' := h
    simp only [Memory.below, Bool.and_eq_true, decide_eq_true_eq] at h
    by_cases hlt : a < k
    · simp only [Memory.insert, hlt, if_true]
      rw [Memory.below, Bool.and_eq_true, decide_eq_true_eq]
      exact ⟨ha, h'⟩
    · simp only [Memory.insert, hlt, if_false]
      rw [Memory.below, Bool.and_eq_true, decide_eq_true_eq]
      exact ⟨h.1, ih h.2⟩

/-- A store below the bound keeps every listed address below it. -/
theorem Memory.below_write {n : Nat} {m : Memory} (a : Nat) (v : Byte) (ha : a < n) (h : m.below n = true) :
    (m.write a v).below n = true := by
  by_cases hv : v = Memory.unwritten
  · simpa [Memory.write, hv] using Memory.below_erase a h
  · rw [Memory.write, if_neg hv]
    exact Memory.below_insert a v ha (Memory.below_erase a h)

theorem Memory.below_writeBytes {n : Nat} {m : Memory} (a : Nat) (bs : List Byte) (ha : a + bs.length ≤ n)
    (h : m.below n = true) : (m.writeBytes a bs).below n = true := by
  induction bs generalizing m a with
  | nil => exact h
  | cons b bs ih =>
    simp only [List.length_cons] at ha
    exact ih (a + 1) (by omega) (Memory.below_write a b (by omega) h)

/-! Equal memories are equal data -/

theorem Memory.read_of_above {a : Nat} {m : Memory} (h : m.above a = true) : m.read a = Memory.unwritten := by
  induction m with
  | nil => rfl
  | cons e m ih =>
    obtain ⟨k, v⟩ := e
    simp only [Memory.above, Bool.and_eq_true, decide_eq_true_eq] at h
    rw [Memory.read_cons, if_neg (by omega), ih h.2]

/-- Two memories in canonical form that read alike at every address are the same list. -/
theorem Memory.ext_of_wf {m m' : Memory} (h : m.wf = true) (h' : m'.wf = true) (hr : ∀ a, m.read a = m'.read a) :
    m = m' := by
  induction m generalizing m' with
  | nil =>
    cases m' with
    | nil => rfl
    | cons e m' =>
      obtain ⟨k, v⟩ := e
      simp only [Memory.wf, Bool.and_eq_true, decide_eq_true_eq] at h'
      exact absurd (by simpa [Memory.read_cons] using (hr k).symm) h'.1.1
  | cons e m ih =>
    obtain ⟨k, v⟩ := e
    simp only [Memory.wf, Bool.and_eq_true, decide_eq_true_eq] at h
    cases m' with
    | nil => exact absurd (by simpa [Memory.read_cons] using hr k) h.1.1
    | cons e' m' =>
      obtain ⟨k', v'⟩ := e'
      simp only [Memory.wf, Bool.and_eq_true, decide_eq_true_eq] at h'
      have hk : k = k' := by
        rcases Nat.lt_trichotomy k k' with hlt | heq | hgt
        · have h1 := hr k
          rw [Memory.read_cons, if_pos rfl, Memory.read_cons, if_neg (by omega),
            Memory.read_of_above (Memory.above_mono (Nat.le_of_lt hlt) h'.1.2)] at h1
          exact absurd h1 h.1.1
        · exact heq
        · have h1 := hr k'
          rw [Memory.read_cons, if_neg (by omega), Memory.read_cons, if_pos rfl,
            Memory.read_of_above (Memory.above_mono (Nat.le_of_lt hgt) h.1.2)] at h1
          exact absurd h1.symm h'.1.1
      subst hk
      have hv : v = v' := by simpa [Memory.read_cons] using hr k
      subst hv
      rw [ih h.2 h'.2 fun a => ?_]
      by_cases ha : k = a
      · subst ha
        rw [Memory.read_of_above h.1.2, Memory.read_of_above h'.1.2]
      · simpa [Memory.read_cons, ha] using hr a

/-! The memories of the reset state -/

theorem State.reset_buf_wf : State.reset.buf.wf = true := rfl

theorem State.reset_rxBuf_wf : State.reset.rx.buf.wf = true := rfl

end Sys2Proof.Machine
end

