-- ==== Sys2Proof/Laws/Operands.lean ====
section
/-! SUPPORT. The laws of the byte orders: how the numbers and the byte lists of Machine/Operands.lean determine each
other. -/

namespace Sys2Proof.Machine

open Sys2Proof

@[simp] theorem length_leBytes (v n : Nat) : (leBytes v n).length = n := by
  induction n generalizing v with
  | zero => rfl
  | succ n ih => simp [leBytes, ih]

@[simp] theorem length_beBytes (v n : Nat) : (beBytes v n).length = n := by simp [beBytes]

@[simp] theorem ByteOrder.length_bytes (o : ByteOrder) (v n : Nat) : (o.bytes v n).length = n := by
  cases o <;> simp [ByteOrder.bytes]

/-- Byte `i` of `leBytes v n` holds bits `8i+7` to `8i` of `v` (40_byte_codec.md R144). -/
theorem getD_leBytes (v n i : Nat) (h : i < n) (d : Byte) : (leBytes v n).getD i d = BitVec.ofNat 8 (v / 256 ^ i) := by
  induction n generalizing v i with
  | zero => omega
  | succ n ih =>
    cases i with
    | zero => simp [leBytes]
    | succ i =>
      rw [leBytes, List.getD_cons_succ, ih _ _ (by omega), Nat.div_div_eq_div_mul, Nat.pow_succ']

/-- Byte `i` of `beBytes v n` holds bits of `v` counted from the other end (40_byte_codec.md R144). -/
theorem getD_beBytes (v n i : Nat) (h : i < n) (d : Byte) :
    (beBytes v n).getD i d = BitVec.ofNat 8 (v / 256 ^ (n - 1 - i)) := by
  rw [← getD_leBytes v n (n - 1 - i) (by omega) d, List.getD, List.getD, beBytes, List.getElem?_reverse (by simpa using h)]
  simp

theorem le_lt (bs : List Byte) : le bs < 256 ^ bs.length := by
  induction bs with
  | nil => simp [le]
  | cons b bs ih =>
    have hb : b.toNat < 256 := b.isLt
    rw [le, List.length_cons, Nat.pow_succ]
    omega

theorem be_lt (bs : List Byte) : be bs < 256 ^ bs.length := by simpa [be] using le_lt bs.reverse

theorem ByteOrder.value_lt (o : ByteOrder) (bs : List Byte) : o.value bs < 256 ^ bs.length := by
  cases o
  · exact le_lt bs
  · exact be_lt bs

/-- `le(le_bytes(v, n)) = v mod 256^n` (00_scope.md R13). -/
theorem le_leBytes (v n : Nat) : le (leBytes v n) = v % 256 ^ n := by
  induction n generalizing v with
  | zero => simp [leBytes, le, Nat.mod_one]
  | succ n ih =>
    have h : v % (256 * 256 ^ n) = v % 256 + 256 * (v / 256 % 256 ^ n) := Nat.mod_mul
    rw [leBytes, le, ih, BitVec.toNat_ofNat, Nat.pow_succ' (m := 256), h]

theorem be_beBytes (v n : Nat) : be (beBytes v n) = v % 256 ^ n := by simp [be, beBytes, le_leBytes]

/-- Writing a number's bytes and reading them back gives the number modulo `256^n`. -/
theorem ByteOrder.value_bytes (o : ByteOrder) (v n : Nat) : o.value (o.bytes v n) = v % 256 ^ n := by
  cases o
  · exact le_leBytes v n
  · exact be_beBytes v n

theorem leBytes_le (bs : List Byte) : leBytes (le bs) bs.length = bs := by
  induction bs with
  | nil => rfl
  | cons b bs ih =>
    have hb : b.toNat < 256 := b.isLt
    have h1 : (b.toNat + 256 * le bs) / 256 = le bs := by omega
    have h2 : BitVec.ofNat 8 (b.toNat + 256 * le bs) = b := by
      apply BitVec.eq_of_toNat_eq
      rw [BitVec.toNat_ofNat]
      omega
    rw [le, List.length_cons, leBytes, h1, h2, ih]

/-- Reading a number and writing its bytes gives the bytes back. -/
theorem ByteOrder.bytes_value (o : ByteOrder) (bs : List Byte) : o.bytes (o.value bs) bs.length = bs := by
  cases o
  · exact leBytes_le bs
  · have h := leBytes_le bs.reverse
    rw [List.length_reverse] at h
    rw [ByteOrder.bytes, ByteOrder.value, beBytes, be, h, List.reverse_reverse]

/-- The bytes depend on the number modulo `256^n` only. -/
theorem leBytes_mod (v n : Nat) : leBytes (v % 256 ^ n) n = leBytes v n := by
  have h := leBytes_le (leBytes v n)
  rwa [le_leBytes, length_leBytes] at h

theorem ByteOrder.bytes_mod (o : ByteOrder) (v n : Nat) : o.bytes (v % 256 ^ n) n = o.bytes v n := by
  cases o
  · exact leBytes_mod v n
  · simp [ByteOrder.bytes, beBytes, leBytes_mod]

theorem le_append (as bs : List Byte) : le (as ++ bs) = le as + 256 ^ as.length * le bs := by
  induction as with
  | nil => simp [le]
  | cons a as ih =>
    rw [List.cons_append, le, ih, le, List.length_cons, Nat.pow_succ']
    ring

/-- `le` as the positional sum rule R13 writes. -/
theorem le_eq_sum (bs : List Byte) : le bs = ∑ i ∈ Finset.range bs.length, (bs.getD i 0).toNat * 256 ^ i := by
  induction bs with
  | nil => simp [le]
  | cons b bs ih =>
    rw [le, ih, List.length_cons, Finset.sum_range_succ', Finset.mul_sum, List.getD_cons_zero, pow_zero, mul_one,
      add_comm]
    congr 1
    apply Finset.sum_congr rfl
    intro i _
    rw [List.getD_cons_succ, Nat.pow_succ']
    ring

theorem be_eq_sum (bs : List Byte) :
    be bs = ∑ i ∈ Finset.range bs.length, (bs.getD i 0).toNat * 256 ^ (bs.length - 1 - i) := by
  rw [be, le_eq_sum, List.length_reverse, ← Finset.sum_range_reflect]
  apply Finset.sum_congr rfl
  intro i hi
  rw [Finset.mem_range] at hi
  congr 2
  rw [List.getD, List.getD, List.getElem?_reverse (by omega)]
  congr 2
  omega

@[simp] theorem PrefixSize.bytes_le (p : PrefixSize) : p.bytes ≤ 4 := by cases p <;> decide

end Sys2Proof.Machine
end

