-- ==== Sys2Proof/Laws/State.lean ====
section
/-! SUPPORT. One lemma per field per update of State, so that no later proof unfolds a record update. -/

namespace Sys2Proof.Machine

open Sys2Proof

/-! `State.respond` -/

theorem State.respond_toDcb (s : State) (v : DWord) : (s.respond v).toDcb = s.toDcb := rfl
@[simp] theorem State.respond_halt (s : State) (v : DWord) : (s.respond v).halt = s.halt := rfl
@[simp] theorem State.respond_fsr (s : State) (v : DWord) : (s.respond v).fsr = s.fsr := rfl
@[simp] theorem State.respond_lh (s : State) (v : DWord) : (s.respond v).lh = s.lh := rfl
@[simp] theorem State.respond_tls (s : State) (v : DWord) : (s.respond v).tls = s.tls := rfl
@[simp] theorem State.respond_tx (s : State) (v : DWord) : (s.respond v).tx = s.tx := rfl
@[simp] theorem State.respond_rx (s : State) (v : DWord) : (s.respond v).rx = s.rx := rfl
@[simp] theorem State.respond_hi (s : State) (v : DWord) : (s.respond v).hi = s.hi := rfl
@[simp] theorem State.respond_it (s : State) (v : DWord) : (s.respond v).it = s.it := rfl
@[simp] theorem State.respond_its (s : State) (v : DWord) : (s.respond v).its = s.its := rfl
@[simp] theorem State.respond_buf (s : State) (v : DWord) : (s.respond v).buf = s.buf := rfl
@[simp] theorem State.respond_cfg (s : State) (v : DWord) : (s.respond v).cfg = s.cfg := rfl
@[simp] theorem State.respond_inp (s : State) (v : DWord) : (s.respond v).inp = s.inp := rfl
@[simp] theorem State.respond_rsp (s : State) (v : DWord) : (s.respond v).rsp = some ⟨statusOk, v, []⟩ := rfl

/-! `State.respondWith` -/

theorem State.respondWith_toDcb (s : State) (v : DWord) (e : Event) : (s.respondWith v e).toDcb = s.toDcb := rfl
@[simp] theorem State.respondWith_halt (s : State) (v : DWord) (e : Event) : (s.respondWith v e).halt = s.halt := rfl
@[simp] theorem State.respondWith_fsr (s : State) (v : DWord) (e : Event) : (s.respondWith v e).fsr = s.fsr := rfl
@[simp] theorem State.respondWith_lh (s : State) (v : DWord) (e : Event) : (s.respondWith v e).lh = s.lh := rfl
@[simp] theorem State.respondWith_tls (s : State) (v : DWord) (e : Event) : (s.respondWith v e).tls = s.tls := rfl
@[simp] theorem State.respondWith_tx (s : State) (v : DWord) (e : Event) : (s.respondWith v e).tx = s.tx := rfl
@[simp] theorem State.respondWith_rx (s : State) (v : DWord) (e : Event) : (s.respondWith v e).rx = s.rx := rfl
@[simp] theorem State.respondWith_hi (s : State) (v : DWord) (e : Event) : (s.respondWith v e).hi = s.hi := rfl
@[simp] theorem State.respondWith_it (s : State) (v : DWord) (e : Event) : (s.respondWith v e).it = s.it := rfl
@[simp] theorem State.respondWith_its (s : State) (v : DWord) (e : Event) : (s.respondWith v e).its = s.its := rfl
@[simp] theorem State.respondWith_buf (s : State) (v : DWord) (e : Event) : (s.respondWith v e).buf = s.buf := rfl
@[simp] theorem State.respondWith_cfg (s : State) (v : DWord) (e : Event) : (s.respondWith v e).cfg = s.cfg := rfl
@[simp] theorem State.respondWith_inp (s : State) (v : DWord) (e : Event) : (s.respondWith v e).inp = s.inp := rfl
@[simp] theorem State.respondWith_rsp (s : State) (v : DWord) (e : Event) : (s.respondWith v e).rsp = some ⟨statusOk, v, [e]⟩ := rfl

/-! `State.raise` -/

@[simp] theorem State.raise_halt (s : State) (opc : Byte) (r : Raise) : (s.raise opc r).halt = haltAfter s.halt r.err := rfl
@[simp] theorem State.raise_fsr (s : State) (opc : Byte) (r : Raise) : (s.raise opc r).fsr = s.fsr.latch opc r := rfl
@[simp] theorem State.raise_lh (s : State) (opc : Byte) (r : Raise) : (s.raise opc r).lh = s.lh := rfl
@[simp] theorem State.raise_tls (s : State) (opc : Byte) (r : Raise) : (s.raise opc r).tls = s.tls := rfl
@[simp] theorem State.raise_tx (s : State) (opc : Byte) (r : Raise) : (s.raise opc r).tx = s.tx := rfl
@[simp] theorem State.raise_rx (s : State) (opc : Byte) (r : Raise) : (s.raise opc r).rx = s.rx := rfl
@[simp] theorem State.raise_hi (s : State) (opc : Byte) (r : Raise) : (s.raise opc r).hi = s.hi := rfl
@[simp] theorem State.raise_it (s : State) (opc : Byte) (r : Raise) : (s.raise opc r).it = s.it := rfl
@[simp] theorem State.raise_its (s : State) (opc : Byte) (r : Raise) : (s.raise opc r).its = s.its := rfl
@[simp] theorem State.raise_buf (s : State) (opc : Byte) (r : Raise) : (s.raise opc r).buf = s.buf := rfl
@[simp] theorem State.raise_cfg (s : State) (opc : Byte) (r : Raise) : (s.raise opc r).cfg = s.cfg := rfl
@[simp] theorem State.raise_inp (s : State) (opc : Byte) (r : Raise) : (s.raise opc r).inp = s.inp := rfl
@[simp] theorem State.raise_rsp (s : State) (opc : Byte) (r : Raise) : (s.raise opc r).rsp = some ⟨r.err.code, 0, []⟩ := rfl

/-! `State.refuseHalted` -/

theorem State.refuseHalted_toDcb (s : State) : s.refuseHalted.toDcb = s.toDcb := rfl
@[simp] theorem State.refuseHalted_halt (s : State) : s.refuseHalted.halt = s.halt := rfl
@[simp] theorem State.refuseHalted_fsr (s : State) : s.refuseHalted.fsr = s.fsr := rfl
@[simp] theorem State.refuseHalted_lh (s : State) : s.refuseHalted.lh = s.lh := rfl
@[simp] theorem State.refuseHalted_tls (s : State) : s.refuseHalted.tls = s.tls := rfl
@[simp] theorem State.refuseHalted_tx (s : State) : s.refuseHalted.tx = s.tx := rfl
@[simp] theorem State.refuseHalted_rx (s : State) : s.refuseHalted.rx = s.rx := rfl
@[simp] theorem State.refuseHalted_hi (s : State) : s.refuseHalted.hi = s.hi := rfl
@[simp] theorem State.refuseHalted_it (s : State) : s.refuseHalted.it = s.it := rfl
@[simp] theorem State.refuseHalted_its (s : State) : s.refuseHalted.its = s.its := rfl
@[simp] theorem State.refuseHalted_buf (s : State) : s.refuseHalted.buf = s.buf := rfl
@[simp] theorem State.refuseHalted_cfg (s : State) : s.refuseHalted.cfg = s.cfg := rfl
@[simp] theorem State.refuseHalted_inp (s : State) : s.refuseHalted.inp = s.inp := rfl
@[simp] theorem State.refuseHalted_rsp (s : State) : s.refuseHalted.rsp = some ⟨statusHalted, 0, []⟩ := rfl

/-! `State.resetRegisters` -/

@[simp] theorem State.resetRegisters_halt (s : State) : s.resetRegisters.halt = false := rfl
@[simp] theorem State.resetRegisters_fsr (s : State) : s.resetRegisters.fsr = ⟨0, 0, 0⟩ := rfl
@[simp] theorem State.resetRegisters_lh (s : State) : s.resetRegisters.lh = ⟨0, 0, 0, 0⟩ := rfl
@[simp] theorem State.resetRegisters_tls (s : State) : s.resetRegisters.tls = .closed := rfl
@[simp] theorem State.resetRegisters_tx (s : State) : s.resetRegisters.tx = ⟨0, 0, 0, 0⟩ := rfl
@[simp] theorem State.resetRegisters_rx (s : State) : s.resetRegisters.rx = ⟨s.rx.buf, 0, 0, false⟩ := rfl
@[simp] theorem State.resetRegisters_hi (s : State) : s.resetRegisters.hi = HeaderInfo.zero := rfl
@[simp] theorem State.resetRegisters_it (s : State) : s.resetRegisters.it = Iter.zero := rfl
@[simp] theorem State.resetRegisters_its (s : State) : s.resetRegisters.its = Iter.zero := rfl
@[simp] theorem State.resetRegisters_buf (s : State) : s.resetRegisters.buf = s.buf := rfl
@[simp] theorem State.resetRegisters_cfg (s : State) : s.resetRegisters.cfg = s.cfg := rfl
@[simp] theorem State.resetRegisters_inp (s : State) : s.resetRegisters.inp = s.inp := rfl
@[simp] theorem State.resetRegisters_rsp (s : State) : s.resetRegisters.rsp = s.rsp := rfl

/-! `State.quiet` -/

theorem State.quiet_toDcb (s : State) : s.quiet.toDcb = s.toDcb := rfl
@[simp] theorem State.quiet_halt (s : State) : s.quiet.halt = s.halt := rfl
@[simp] theorem State.quiet_fsr (s : State) : s.quiet.fsr = s.fsr := rfl
@[simp] theorem State.quiet_lh (s : State) : s.quiet.lh = s.lh := rfl
@[simp] theorem State.quiet_tls (s : State) : s.quiet.tls = s.tls := rfl
@[simp] theorem State.quiet_tx (s : State) : s.quiet.tx = s.tx := rfl
@[simp] theorem State.quiet_rx (s : State) : s.quiet.rx = s.rx := rfl
@[simp] theorem State.quiet_hi (s : State) : s.quiet.hi = s.hi := rfl
@[simp] theorem State.quiet_it (s : State) : s.quiet.it = s.it := rfl
@[simp] theorem State.quiet_its (s : State) : s.quiet.its = s.its := rfl
@[simp] theorem State.quiet_buf (s : State) : s.quiet.buf = s.buf := rfl
@[simp] theorem State.quiet_cfg (s : State) : s.quiet.cfg = s.cfg := rfl
@[simp] theorem State.quiet_inp (s : State) : s.quiet.inp = s.inp := rfl
@[simp] theorem State.quiet_rsp (s : State) : s.quiet.rsp = none := rfl

/-! `State.present` -/

theorem State.present_toDcb (s : State) (f : Frame) : (s.present f).toDcb = s.toDcb := rfl
@[simp] theorem State.present_halt (s : State) (f : Frame) : (s.present f).halt = s.halt := rfl
@[simp] theorem State.present_fsr (s : State) (f : Frame) : (s.present f).fsr = s.fsr := rfl
@[simp] theorem State.present_lh (s : State) (f : Frame) : (s.present f).lh = s.lh := rfl
@[simp] theorem State.present_tls (s : State) (f : Frame) : (s.present f).tls = s.tls := rfl
@[simp] theorem State.present_tx (s : State) (f : Frame) : (s.present f).tx = s.tx := rfl
@[simp] theorem State.present_rx (s : State) (f : Frame) : (s.present f).rx = s.rx := rfl
@[simp] theorem State.present_hi (s : State) (f : Frame) : (s.present f).hi = s.hi := rfl
@[simp] theorem State.present_it (s : State) (f : Frame) : (s.present f).it = s.it := rfl
@[simp] theorem State.present_its (s : State) (f : Frame) : (s.present f).its = s.its := rfl
@[simp] theorem State.present_buf (s : State) (f : Frame) : (s.present f).buf = s.buf := rfl
@[simp] theorem State.present_cfg (s : State) (f : Frame) : (s.present f).cfg = s.cfg := rfl
@[simp] theorem State.present_inp (s : State) (f : Frame) : (s.present f).inp = .command f :: s.inp := rfl
@[simp] theorem State.present_rsp (s : State) (f : Frame) : (s.present f).rsp = s.rsp := rfl

/-! `State.tlIgnored` -/

theorem State.tlIgnored_toDcb (s : State) : s.tlIgnored.toDcb = s.toDcb := rfl
@[simp] theorem State.tlIgnored_halt (s : State) : s.tlIgnored.halt = s.halt := rfl
@[simp] theorem State.tlIgnored_fsr (s : State) : s.tlIgnored.fsr = s.fsr := rfl
@[simp] theorem State.tlIgnored_lh (s : State) : s.tlIgnored.lh = s.lh := rfl
@[simp] theorem State.tlIgnored_tls (s : State) : s.tlIgnored.tls = s.tls := rfl
@[simp] theorem State.tlIgnored_tx (s : State) : s.tlIgnored.tx = s.tx := rfl
@[simp] theorem State.tlIgnored_rx (s : State) : s.tlIgnored.rx = s.rx := rfl
@[simp] theorem State.tlIgnored_hi (s : State) : s.tlIgnored.hi = s.hi := rfl
@[simp] theorem State.tlIgnored_it (s : State) : s.tlIgnored.it = s.it := rfl
@[simp] theorem State.tlIgnored_its (s : State) : s.tlIgnored.its = s.its := rfl
@[simp] theorem State.tlIgnored_buf (s : State) : s.tlIgnored.buf = s.buf := rfl
@[simp] theorem State.tlIgnored_cfg (s : State) : s.tlIgnored.cfg = s.cfg := rfl
@[simp] theorem State.tlIgnored_inp (s : State) : s.tlIgnored.inp = s.inp := rfl
@[simp] theorem State.tlIgnored_rsp (s : State) : s.tlIgnored.rsp = some ⟨statusOk, tlResult s.tls false, []⟩ := rfl

/-! `State.tlHandled` -/

theorem State.tlHandled_toDcb (s : State) : s.tlHandled.toDcb = s.toDcb := rfl
@[simp] theorem State.tlHandled_halt (s : State) : s.tlHandled.halt = s.halt := rfl
@[simp] theorem State.tlHandled_fsr (s : State) : s.tlHandled.fsr = s.fsr := rfl
@[simp] theorem State.tlHandled_lh (s : State) : s.tlHandled.lh = s.lh := rfl
@[simp] theorem State.tlHandled_tls (s : State) : s.tlHandled.tls = s.tls := rfl
@[simp] theorem State.tlHandled_tx (s : State) : s.tlHandled.tx = s.tx := rfl
@[simp] theorem State.tlHandled_rx (s : State) : s.tlHandled.rx = s.rx := rfl
@[simp] theorem State.tlHandled_hi (s : State) : s.tlHandled.hi = s.hi := rfl
@[simp] theorem State.tlHandled_it (s : State) : s.tlHandled.it = s.it := rfl
@[simp] theorem State.tlHandled_its (s : State) : s.tlHandled.its = s.its := rfl
@[simp] theorem State.tlHandled_buf (s : State) : s.tlHandled.buf = s.buf := rfl
@[simp] theorem State.tlHandled_cfg (s : State) : s.tlHandled.cfg = s.cfg := rfl
@[simp] theorem State.tlHandled_inp (s : State) : s.tlHandled.inp = s.inp := rfl
@[simp] theorem State.tlHandled_rsp (s : State) : s.tlHandled.rsp = some ⟨statusOk, tlResult s.tls true, []⟩ := rfl

/-! `State.tlEmit` -/

theorem State.tlEmit_toDcb (s : State) (e : Event) : (s.tlEmit e).toDcb = s.toDcb := rfl
@[simp] theorem State.tlEmit_halt (s : State) (e : Event) : (s.tlEmit e).halt = s.halt := rfl
@[simp] theorem State.tlEmit_fsr (s : State) (e : Event) : (s.tlEmit e).fsr = s.fsr := rfl
@[simp] theorem State.tlEmit_lh (s : State) (e : Event) : (s.tlEmit e).lh = s.lh := rfl
@[simp] theorem State.tlEmit_tls (s : State) (e : Event) : (s.tlEmit e).tls = s.tls := rfl
@[simp] theorem State.tlEmit_tx (s : State) (e : Event) : (s.tlEmit e).tx = s.tx := rfl
@[simp] theorem State.tlEmit_rx (s : State) (e : Event) : (s.tlEmit e).rx = s.rx := rfl
@[simp] theorem State.tlEmit_hi (s : State) (e : Event) : (s.tlEmit e).hi = s.hi := rfl
@[simp] theorem State.tlEmit_it (s : State) (e : Event) : (s.tlEmit e).it = s.it := rfl
@[simp] theorem State.tlEmit_its (s : State) (e : Event) : (s.tlEmit e).its = s.its := rfl
@[simp] theorem State.tlEmit_buf (s : State) (e : Event) : (s.tlEmit e).buf = s.buf := rfl
@[simp] theorem State.tlEmit_cfg (s : State) (e : Event) : (s.tlEmit e).cfg = s.cfg := rfl
@[simp] theorem State.tlEmit_inp (s : State) (e : Event) : (s.tlEmit e).inp = s.inp := rfl
@[simp] theorem State.tlEmit_rsp (s : State) (e : Event) : (s.tlEmit e).rsp = some ⟨statusOk, tlResult s.tls true, [e]⟩ := rfl

/-! `State.respondHeader` -/

theorem State.respondHeader_toDcb (s : State) : s.respondHeader.toDcb = s.toDcb := rfl
@[simp] theorem State.respondHeader_halt (s : State) : s.respondHeader.halt = s.halt := rfl
@[simp] theorem State.respondHeader_fsr (s : State) : s.respondHeader.fsr = s.fsr := rfl
@[simp] theorem State.respondHeader_lh (s : State) : s.respondHeader.lh = s.lh := rfl
@[simp] theorem State.respondHeader_tls (s : State) : s.respondHeader.tls = s.tls := rfl
@[simp] theorem State.respondHeader_tx (s : State) : s.respondHeader.tx = s.tx := rfl
@[simp] theorem State.respondHeader_rx (s : State) : s.respondHeader.rx = s.rx := rfl
@[simp] theorem State.respondHeader_hi (s : State) : s.respondHeader.hi = s.hi := rfl
@[simp] theorem State.respondHeader_it (s : State) : s.respondHeader.it = s.it := rfl
@[simp] theorem State.respondHeader_its (s : State) : s.respondHeader.its = s.its := rfl
@[simp] theorem State.respondHeader_buf (s : State) : s.respondHeader.buf = s.buf := rfl
@[simp] theorem State.respondHeader_cfg (s : State) : s.respondHeader.cfg = s.cfg := rfl
@[simp] theorem State.respondHeader_inp (s : State) : s.respondHeader.inp = s.inp := rfl
@[simp] theorem State.respondHeader_rsp (s : State) : s.respondHeader.rsp = some ⟨statusOk, s.lh.pack, []⟩ := rfl

/-! What the response port shows -/

theorem State.status_of {s : State} {r : Response} (h : s.rsp = some r) : s.status = some r.st := by simp [State.status, h]

theorem State.result_of {s : State} {r : Response} (h : s.rsp = some r) : s.result = some r.res := by
  simp [State.result, h]

theorem State.events_of {s : State} {r : Response} (h : s.rsp = some r) : s.events = r.ev := by simp [State.events, h]

@[simp] theorem State.respond_status (s : State) (v : DWord) : (s.respond v).status = some statusOk := rfl
@[simp] theorem State.respond_result (s : State) (v : DWord) : (s.respond v).result = some v := rfl
@[simp] theorem State.respond_events (s : State) (v : DWord) : (s.respond v).events = [] := rfl
@[simp] theorem State.respondWith_status (s : State) (v : DWord) (e : Event) : (s.respondWith v e).status = some statusOk := rfl
@[simp] theorem State.respondWith_result (s : State) (v : DWord) (e : Event) : (s.respondWith v e).result = some v := rfl
@[simp] theorem State.respondWith_events (s : State) (v : DWord) (e : Event) : (s.respondWith v e).events = [e] := rfl
@[simp] theorem State.raise_status (s : State) (opc : Byte) (r : Raise) : (s.raise opc r).status = some r.err.code := rfl
@[simp] theorem State.raise_result (s : State) (opc : Byte) (r : Raise) : (s.raise opc r).result = some 0 := rfl
@[simp] theorem State.raise_events (s : State) (opc : Byte) (r : Raise) : (s.raise opc r).events = [] := rfl
@[simp] theorem State.refuseHalted_status (s : State) : s.refuseHalted.status = some statusHalted := rfl
@[simp] theorem State.refuseHalted_result (s : State) : s.refuseHalted.result = some 0 := rfl
@[simp] theorem State.refuseHalted_events (s : State) : s.refuseHalted.events = [] := rfl
@[simp] theorem State.tlIgnored_status (s : State) : s.tlIgnored.status = some statusOk := rfl
@[simp] theorem State.tlIgnored_result (s : State) : s.tlIgnored.result = some (tlResult s.tls false) := rfl
@[simp] theorem State.tlIgnored_events (s : State) : s.tlIgnored.events = [] := rfl
@[simp] theorem State.tlHandled_status (s : State) : s.tlHandled.status = some statusOk := rfl
@[simp] theorem State.tlHandled_result (s : State) : s.tlHandled.result = some (tlResult s.tls true) := rfl
@[simp] theorem State.tlHandled_events (s : State) : s.tlHandled.events = [] := rfl
@[simp] theorem State.tlEmit_status (s : State) (e : Event) : (s.tlEmit e).status = some statusOk := rfl
@[simp] theorem State.tlEmit_result (s : State) (e : Event) : (s.tlEmit e).result = some (tlResult s.tls true) := rfl
@[simp] theorem State.tlEmit_events (s : State) (e : Event) : (s.tlEmit e).events = [e] := rfl
@[simp] theorem State.respondHeader_status (s : State) : s.respondHeader.status = some statusOk := rfl
@[simp] theorem State.respondHeader_result (s : State) : s.respondHeader.result = some s.lh.pack := rfl
@[simp] theorem State.respondHeader_events (s : State) : s.respondHeader.events = [] := rfl

end Sys2Proof.Machine
end

