-- ==== Sys2Proof/Laws/Ops.lean ====
section
/-! SUPPORT. One lemma per shared operation that says once everything it can do: the accesses to `BUF`, the frame of a
command, the codec, the link header unit, and the steps of the boundary. -/

namespace Sys2Proof.Machine

open Sys2Proof

/-! Access to `BUF` -/

theorem State.memRead_eq_ok {s : State} {a n : Nat} {b : List Byte} :
    s.memRead a n = .ok b ↔ (n = 0 ∨ a + n ≤ s.cfg.bufSize) ∧ b = s.buf.readBytes a n := by
  unfold State.memRead
  by_cases hn : n = 0
  · subst hn; simp [Memory.readBytes, eq_comm]
  · by_cases hr : s.cfg.bufSize < a + n
    · simp [hn, hr]
    · simp [hn, hr, eq_comm, Nat.le_of_not_lt hr]

theorem State.memRead_eq_error {s : State} {a n : Nat} {r : Raise} :
    s.memRead a n = .error r ↔ n ≠ 0 ∧ s.cfg.bufSize < a + n ∧ r = bufRange a := by
  unfold State.memRead
  by_cases hn : n = 0
  · simp [hn]
  · by_cases hr : s.cfg.bufSize < a + n
    · simp [hn, hr, eq_comm]
    · simp [hn, hr]

theorem State.memRead_in {s : State} {a n : Nat} (h : a + n ≤ s.cfg.bufSize) :
    s.memRead a n = .ok (s.buf.readBytes a n) := State.memRead_eq_ok.2 ⟨.inr h, rfl⟩

theorem State.memRead_out {s : State} {a n : Nat} (hn : n ≠ 0) (h : s.cfg.bufSize < a + n) :
    s.memRead a n = .error (bufRange a) := State.memRead_eq_error.2 ⟨hn, h, rfl⟩

theorem State.memRead_length {s : State} {a n : Nat} {b : List Byte} (h : s.memRead a n = .ok b) : b.length = n := by
  rw [(State.memRead_eq_ok.1 h).2, Memory.length_readBytes]

/-- A read sees the parameters and `BUF` only. -/
theorem State.memRead_congr {s t : State} (hc : t.cfg = s.cfg) (hb : t.buf = s.buf) (a n : Nat) :
    t.memRead a n = s.memRead a n := by unfold State.memRead; rw [hc, hb]

theorem State.memWrite_eq_ok {s t : State} {a : Nat} {bs : List Byte} :
    s.memWrite a bs = .ok t ↔
      (bs.length = 0 ∨ a + bs.length ≤ s.cfg.bufSize) ∧ t = { s with buf := s.buf.writeBytes a bs } := by
  unfold State.memWrite
  by_cases hn : bs.length = 0
  · rw [List.length_eq_zero_iff] at hn
    subst hn
    simp only [List.length_nil, if_true, Memory.writeBytes, true_or, true_and, Except.ok.injEq]
    exact eq_comm
  · by_cases hr : s.cfg.bufSize < a + bs.length
    · simp only [hn, hr, if_true, if_false]
      simp only [reduceCtorEq, false_or, false_iff, not_and]
      omega
    · simp [hn, hr, eq_comm, Nat.le_of_not_lt hr]

theorem State.memWrite_eq_error {s : State} {a : Nat} {bs : List Byte} {r : Raise} :
    s.memWrite a bs = .error r ↔ bs.length ≠ 0 ∧ s.cfg.bufSize < a + bs.length ∧ r = bufRange a := by
  unfold State.memWrite
  by_cases hn : bs.length = 0
  · simp [hn]
  · by_cases hr : s.cfg.bufSize < a + bs.length
    · simp only [hn, hr, if_true, if_false]
      simp [hn, eq_comm]
    · simp only [hn, hr, if_false]
      simp

theorem State.memWrite_in {s : State} {a : Nat} {bs : List Byte} (h : a + bs.length ≤ s.cfg.bufSize) :
    s.memWrite a bs = .ok { s with buf := s.buf.writeBytes a bs } := State.memWrite_eq_ok.2 ⟨.inr h, rfl⟩

theorem State.memWrite_out {s : State} {a : Nat} {bs : List Byte} (hn : bs.length ≠ 0)
    (h : s.cfg.bufSize < a + bs.length) : s.memWrite a bs = .error (bufRange a) :=
  State.memWrite_eq_error.2 ⟨hn, h, rfl⟩

/-! The frame of a command -/

@[simp] theorem State.finish_ok (s t : State) (opc : Byte) : s.finish opc (.ok t) = t := rfl

@[simp] theorem State.finish_error (s : State) (opc : Byte) (r : Raise) : s.finish opc (.error r) = s.raise opc r := rfl

theorem runCommand_halted {opc : Byte} {body : State → Except Raise State} {s : State} (h : s.halt = true) :
    runCommand opc body s = .next s.refuseHalted := by simp [runCommand, h]

theorem runCommand_running {opc : Byte} {body : State → Except Raise State} {s : State} (h : s.halt = false) :
    runCommand opc body s = .next (s.finish opc (body s)) := by simp [runCommand, h]

/-- Everything a command can do: it is refused while halted, or it raises, or it does what its pseudocode made. -/
theorem runCommand_cases {opc : Byte} {body : State → Except Raise State} {s : State}
    {o : Host.Outcome State Fault Refusal} (h : runCommand opc body s = o) :
    (s.halt = true ∧ o = .next s.refuseHalted) ∨
    (s.halt = false ∧ ∃ r, body s = .error r ∧ o = .next (s.raise opc r)) ∨
    (s.halt = false ∧ ∃ t, body s = .ok t ∧ o = .next t) := by
  subst h
  cases hh : s.halt with
  | true => exact .inl ⟨rfl, runCommand_halted hh⟩
  | false =>
    rw [runCommand_running hh]
    cases hb : body s with
    | error r => exact .inr (.inl ⟨rfl, r, rfl, rfl⟩)
    | ok t => exact .inr (.inr ⟨rfl, t, rfl, rfl⟩)

/-- The same for a command that answers a next state. -/
theorem runCommand_next {opc : Byte} {body : State → Except Raise State} {s t : State}
    (h : runCommand opc body s = .next t) :
    (s.halt = true ∧ t = s.refuseHalted) ∨
    (s.halt = false ∧ ∃ r, body s = .error r ∧ t = s.raise opc r) ∨
    (s.halt = false ∧ body s = .ok t) := by
  rcases runCommand_cases h with ⟨hh, e⟩ | ⟨hh, r, hr, e⟩ | ⟨hh, u, hu, e⟩
  · exact .inl ⟨hh, by injection e⟩
  · exact .inr (.inl ⟨hh, r, hr, by injection e⟩)
  · injection e with e
    exact .inr (.inr ⟨hh, by rw [hu, e]⟩)

theorem runSystem_eq (body : State → State) (s : State) : runSystem body s = .next (body s) := rfl

theorem illegalCommand_halted {cw : Word} {s : State} (h : s.halt = true) :
    illegalCommand cw s = .next s.refuseHalted := runCommand_halted h

theorem illegalCommand_running {cw : Word} {s : State} (h : s.halt = false) :
    illegalCommand cw s = .next (s.raise (opcodeField cw) ⟨.illegalCmd, cw.setWidth 64⟩) := runCommand_running h

/-- The latch once taken stays. -/
theorem FaultStatus.latch_taken {f : FaultStatus} (h : f.fcode ≠ 0x00) (opc : Byte) (r : Raise) :
    f.latch opc r = f := if_neg h

theorem FaultStatus.latch_free {f : FaultStatus} (h : f.fcode = 0x00) (opc : Byte) (r : Raise) :
    f.latch opc r = ⟨r.err.code, opc, r.info⟩ := if_pos h

theorem ErrCode.code_pos (e : ErrCode) : e.code ≠ 0x00 := by cases e <;> decide

theorem ErrCode.code_le (e : ErrCode) : e.code.toNat ≤ 7 := by cases e <;> decide

theorem FaultStatus.latch_fcode (f : FaultStatus) (opc : Byte) (r : Raise) : (f.latch opc r).fcode ≠ 0x00 := by
  by_cases h : f.fcode = 0x00
  · rw [FaultStatus.latch_free h]; exact r.err.code_pos
  · rwa [FaultStatus.latch_taken h]

/-! The byte codec -/

/-- Everything a codec read can do. -/
theorem codecRead_eq_ok {w : Nat} {o : ByteOrder} {ext : Nat → DWord} {addr : Word} {s t : State} :
    codecRead w o ext addr s = .ok t ↔ (w = 0 ∨ addr.toNat + w ≤ s.cfg.bufSize) ∧
      t = s.respond (ext (o.value (s.buf.readBytes addr.toNat w))) := by
  unfold codecRead
  cases h : s.memRead addr.toNat w with
  | ok b => obtain ⟨h1, h2⟩ := State.memRead_eq_ok.1 h; simp [h1, h2, eq_comm]
  | error r =>
    obtain ⟨h1, h2, h3⟩ := State.memRead_eq_error.1 h
    simp only [reduceCtorEq, false_iff, not_and]
    omega

theorem codecRead_eq_error {w : Nat} {o : ByteOrder} {ext : Nat → DWord} {addr : Word} {s : State} {r : Raise} :
    codecRead w o ext addr s = .error r ↔ w ≠ 0 ∧ s.cfg.bufSize < addr.toNat + w ∧ r = bufRange addr.toNat := by
  unfold codecRead
  cases h : s.memRead addr.toNat w with
  | ok b =>
    obtain ⟨h1, h2⟩ := State.memRead_eq_ok.1 h
    simp only [reduceCtorEq, false_iff, not_and]
    omega
  | error q =>
    have h' := @State.memRead_eq_error s addr.toNat w r
    rw [h] at h'
    simpa using h'

/-- Everything a codec write can do. -/
theorem codecWrite_eq_ok {w : Nat} {o : ByteOrder} {addr : Word} {v : Nat} {s t : State} :
    codecWrite w o addr v s = .ok t ↔ (w = 0 ∨ addr.toNat + w ≤ s.cfg.bufSize) ∧
      t = { s with buf := s.buf.writeBytes addr.toNat (o.bytes v w) }.respond 0 := by
  unfold codecWrite
  cases h : s.memWrite addr.toNat (o.bytes v w) with
  | ok u =>
    obtain ⟨h1, h2⟩ := State.memWrite_eq_ok.1 h
    rw [ByteOrder.length_bytes] at h1
    simp [h1, h2, eq_comm]
  | error r =>
    obtain ⟨h1, h2, h3⟩ := State.memWrite_eq_error.1 h
    rw [ByteOrder.length_bytes] at h1 h2
    simp only [reduceCtorEq, false_iff, not_and]
    omega

theorem codecWrite_eq_error {w : Nat} {o : ByteOrder} {addr : Word} {v : Nat} {s : State} {r : Raise} :
    codecWrite w o addr v s = .error r ↔ w ≠ 0 ∧ s.cfg.bufSize < addr.toNat + w ∧ r = bufRange addr.toNat := by
  unfold codecWrite
  cases h : s.memWrite addr.toNat (o.bytes v w) with
  | ok u =>
    obtain ⟨h1, h2⟩ := State.memWrite_eq_ok.1 h
    rw [ByteOrder.length_bytes] at h1
    simp only [reduceCtorEq, false_iff, not_and]
    omega
  | error q =>
    have h' := @State.memWrite_eq_error s addr.toNat (o.bytes v w) r
    rw [ByteOrder.length_bytes, h] at h'
    exact h'

/-! The link header unit -/

@[simp] theorem LinkHeader.length_wire (h : LinkHeader) : h.wire.length = 8 := by simp [LinkHeader.wire]

/-- Everything `LH.READ` can do. -/
theorem linkRead_eq_ok {addr : Word} {s t : State} :
    linkRead addr s = .ok t ↔ addr.toNat + 10 ≤ s.cfg.bufSize ∧
      t = { s with lh := LinkHeader.parse (s.buf.readBytes addr.toNat 10) }.respondHeader := by
  unfold linkRead
  cases h : s.memRead addr.toNat 10 with
  | ok b =>
    obtain ⟨h1, h2⟩ := State.memRead_eq_ok.1 h
    have h3 : addr.toNat + 10 ≤ s.cfg.bufSize := by omega
    simp [h3, h2, eq_comm]
  | error r =>
    obtain ⟨h1, h2, h3⟩ := State.memRead_eq_error.1 h
    simp only [reduceCtorEq, false_iff, not_and]
    omega

theorem linkRead_eq_error {addr : Word} {s : State} {r : Raise} :
    linkRead addr s = .error r ↔ s.cfg.bufSize < addr.toNat + 10 ∧ r = bufRange addr.toNat := by
  unfold linkRead
  cases h : s.memRead addr.toNat 10 with
  | ok b =>
    obtain ⟨h1, h2⟩ := State.memRead_eq_ok.1 h
    simp only [reduceCtorEq, false_iff, not_and]
    omega
  | error q =>
    have h' := @State.memRead_eq_error s addr.toNat 10 r
    rw [h] at h'
    simpa using h'

/-- The ten bytes `LH.WRITE` stores. -/
theorem linkWrite_eq {addr : Word} {s : State} :
    linkWrite addr s =
      if addr.toNat + 10 ≤ s.cfg.bufSize then
        .ok ({ s with buf := s.buf.writeBytes addr.toNat (s.lh.wire ++ leBytes (crc16 s.lh.wire).toNat 2) }.respond
          ((crc16 s.lh.wire).setWidth 64))
      else .error (bufRange addr.toNat) := by
  have hl : (s.lh.wire ++ leBytes (crc16 s.lh.wire).toNat 2).length = 10 := by simp
  unfold linkWrite
  by_cases hr : addr.toNat + 10 ≤ s.cfg.bufSize
  · simp only [hr, if_true]
    rw [State.memWrite_in (by rw [hl]; exact hr)]
  · simp only [hr, if_false]
    rw [State.memWrite_out (by rw [hl]; decide) (by rw [hl]; omega)]

/-- Everything `CRC.CALC` can do. -/
theorem crcCalc_eq {addr : Word} {len : DWord} {s : State} :
    crcCalc addr len s =
      if len.toNat = 0 ∨ addr.toNat + len.toNat ≤ s.cfg.bufSize then
        .ok (s.respond ((crc16 (s.buf.readBytes addr.toNat len.toNat)).setWidth 64))
      else .error (bufRange addr.toNat) := by
  unfold crcCalc
  cases h : s.memRead addr.toNat len.toNat with
  | ok b => obtain ⟨h1, h2⟩ := State.memRead_eq_ok.1 h; rw [if_pos h1, h2]
  | error r =>
    obtain ⟨h1, h2, h3⟩ := State.memRead_eq_error.1 h
    rw [if_neg (by omega), h3]

/-! The boundary -/

theorem runFrame_decoded {f : Frame} {i : Instr} (h : decode f = .ok i) (s : State) : runFrame f s = exec i s := by
  unfold runFrame; rw [h]

theorem runFrame_illegal {f : Frame} {e : DecodeError} (h : decode f = .error e) (s : State) :
    runFrame f s = illegalCommand f.cw s := by
  unfold runFrame; rw [h]

/-- Everything a host store can do. -/
theorem hostStore_eq {addr : Nat} {bs : List Byte} {s : State} :
    hostStore addr bs s =
      if bs.length = 0 ∨ addr + bs.length ≤ s.cfg.bufSize then .next { s with buf := s.buf.writeBytes addr bs }
      else .fault .hostStoreRange := by
  unfold hostStore
  cases h : s.memWrite addr bs with
  | ok t => obtain ⟨h1, h2⟩ := State.memWrite_eq_ok.1 h; rw [if_pos h1, h2]
  | error r => obtain ⟨h1, h2, -⟩ := State.memWrite_eq_error.1 h; rw [if_neg (by omega)]

theorem runNext_idle {s : State} (h : s.inp = []) : runNext s = .next s.quiet := by unfold runNext; rw [h]

theorem runNext_act {s : State} {a : HostAct} {rest : List HostAct} (h : s.inp = a :: rest) :
    runNext s = runAct a { s with inp := rest, rsp := none } := by unfold runNext; rw [h]

end Sys2Proof.Machine
end

