-- ==== Sys2Proof/Laws/Exec.lean ====
section
/-! SUPPORT. The one lemma that lets a proof about every instruction stop unfolding `exec`: each command is the frame of
R348 around its pseudocode. -/

namespace Sys2Proof.Machine

open Sys2Proof

/-- The pseudocode of each instruction: what its frame runs when the DCB is not halted. -/
def pseudocode : Instr → State → Except Raise State
  | .rdU8 addr => codecRead 1 .little zext64 addr
  | .rdI8 addr => codecRead 1 .little (sext64 1) addr
  | .rdU16LE addr => codecRead 2 .little zext64 addr
  | .rdU16BE addr => codecRead 2 .big zext64 addr
  | .rdI16LE addr => codecRead 2 .little (sext64 2) addr
  | .rdI16BE addr => codecRead 2 .big (sext64 2) addr
  | .rdU32LE addr => codecRead 4 .little zext64 addr
  | .rdU32BE addr => codecRead 4 .big zext64 addr
  | .rdI32LE addr => codecRead 4 .little (sext64 4) addr
  | .rdI32BE addr => codecRead 4 .big (sext64 4) addr
  | .rdU48LE addr => codecRead 6 .little zext64 addr
  | .rdU48BE addr => codecRead 6 .big zext64 addr
  | .rdU64LE addr => codecRead 8 .little zext64 addr
  | .rdU64BE addr => codecRead 8 .big zext64 addr
  | .rdI64LE addr => codecRead 8 .little (sext64 8) addr
  | .rdI64BE addr => codecRead 8 .big (sext64 8) addr
  | .rdF32LE addr => codecRead 4 .little zext64 addr
  | .rdF32BE addr => codecRead 4 .big zext64 addr
  | .rdF64LE addr => codecRead 8 .little zext64 addr
  | .rdF64BE addr => codecRead 8 .big zext64 addr
  | .wrU8 addr value => codecWrite 1 .little addr value.toNat
  | .wrI8 addr value => codecWrite 1 .little addr value.toNat
  | .wrU16LE addr value => codecWrite 2 .little addr value.toNat
  | .wrU16BE addr value => codecWrite 2 .big addr value.toNat
  | .wrI16LE addr value => codecWrite 2 .little addr value.toNat
  | .wrI16BE addr value => codecWrite 2 .big addr value.toNat
  | .wrU32LE addr value => codecWrite 4 .little addr value.toNat
  | .wrU32BE addr value => codecWrite 4 .big addr value.toNat
  | .wrI32LE addr value => codecWrite 4 .little addr value.toNat
  | .wrI32BE addr value => codecWrite 4 .big addr value.toNat
  | .wrU48LE addr value => codecWrite 6 .little addr (clamp48 value)
  | .wrU48BE addr value => codecWrite 6 .big addr (clamp48 value)
  | .wrU64LE addr value => codecWrite 8 .little addr value.toNat
  | .wrU64BE addr value => codecWrite 8 .big addr value.toNat
  | .wrI64LE addr value => codecWrite 8 .little addr value.toNat
  | .wrI64BE addr value => codecWrite 8 .big addr value.toNat
  | .wrF32LE addr value => codecWrite 4 .little addr value.toNat
  | .wrF32BE addr value => codecWrite 4 .big addr value.toNat
  | .wrF64LE addr value => codecWrite 8 .little addr value.toNat
  | .wrF64BE addr value => codecWrite 8 .big addr value.toNat
  | .lhSet len ctrl dest src => fun s => .ok { s with lh := ⟨len, ctrl, dest, src⟩ }.respondHeader
  | .lhGet => fun s => .ok s.respondHeader
  | .lhRead addr => linkRead addr
  | .lhWrite addr => linkWrite addr
  | .lhCtrl dir fcb fcv func => fun s => .ok (s.respond ((controlByte dir fcb fcv func).setWidth 64))
  | .lhChfcb fcb =>
    fun s => .ok ({ s with lh := { s.lh with ctrl := setFcb s.lh.ctrl fcb } }.respond ((setFcb s.lh.ctrl fcb).setWidth 64))
  | .lhFunc => fun s => .ok (s.respond ((s.lh.ctrl &&& 0x4F#8).setWidth 64))
  | .crcCalc addr len => crcCalc addr len
  | .tlUp => fun s => .ok (layerUp s)
  | .tlDown => fun s => .ok (layerDown s)
  | .tlSend addr len => send addr len
  | .tlRecv addr len => receive addr len
  | .tlSucc => sendSuccess
  | .tlFail => fun s => .ok (sendFailure s)
  | .ohParse otype osize addr => headerParse otype osize addr
  | .oiInit hasdata dataaddr => iterInit hasdata dataaddr
  | .oiHasdata => fun s => .ok (s.respond (flag64 s.it.hasData))
  | .oiDeref => iterDeref
  | .oiInfo => iterInfo
  | .oiInc => iterInc
  | .oiPinc => iterPostInc
  | .oiCount => fun s => .ok (s.respond (BitVec.ofNat 64 s.it.h.count))
  | .oiIsend => fun s => .ok (s.respond (flag64 s.it.atEnd))
  | .oiSwap => fun s => .ok ({ s with it := s.its, its := s.it }.respond 0)
  | .sysStat => fun s => .ok (s.respond s.statusWord)
  | .sysReset => fun s => .ok (s.resetRegisters.respond 0)
  | .sysFinfo => fun s => .ok (s.respond s.fsr.finfo)

/-- The three instructions that run while halted (60_exceptions.md R346). -/
def runsHalted (i : Instr) : Prop := i = .sysStat ∨ i = .sysReset ∨ i = .sysFinfo

theorem exec_command {i : Instr} (h : ¬runsHalted i) (s : State) :
    exec i s = runCommand i.opcode (pseudocode i) s := by
  cases i with
  | sysStat => exact absurd (.inl rfl) h
  | sysReset => exact absurd (.inr (.inl rfl)) h
  | sysFinfo => exact absurd (.inr (.inr rfl)) h
  | _ => rfl

theorem exec_sysStat (s : State) : exec .sysStat s = .next (s.respond s.statusWord) := rfl

theorem exec_sysReset (s : State) : exec .sysReset s = .next (s.resetRegisters.respond 0) := rfl

theorem exec_sysFinfo (s : State) : exec .sysFinfo s = .next (s.respond s.fsr.finfo) := rfl

/-- Everything an instruction can do: one of the system instructions, refused while halted, a raise, or what its
pseudocode made. -/
theorem exec_next {i : Instr} {s t : State} (h : exec i s = .next t) :
    (runsHalted i ∧ pseudocode i s = .ok t) ∨
    (¬runsHalted i ∧ s.halt = true ∧ t = s.refuseHalted) ∨
    (¬runsHalted i ∧ s.halt = false ∧ ∃ r, pseudocode i s = .error r ∧ t = s.raise i.opcode r) ∨
    (¬runsHalted i ∧ s.halt = false ∧ pseudocode i s = .ok t) := by
  by_cases hr : runsHalted i
  · refine .inl ⟨hr, ?_⟩
    rcases hr with rfl | rfl | rfl
    · rw [exec_sysStat] at h; injection h with h; rw [← h]; rfl
    · rw [exec_sysReset] at h; injection h with h; rw [← h]; rfl
    · rw [exec_sysFinfo] at h; injection h with h; rw [← h]; rfl
  · rw [exec_command hr] at h
    rcases runCommand_next h with ⟨h1, h2⟩ | ⟨h1, r, h2, h3⟩ | ⟨h1, h2⟩
    · exact .inr (.inl ⟨hr, h1, h2⟩)
    · exact .inr (.inr (.inl ⟨hr, h1, r, h2, h3⟩))
    · exact .inr (.inr (.inr ⟨hr, h1, h2⟩))

end Sys2Proof.Machine
end

