-- ==== Sys2Proof/Laws/Objects.lean ====
section
/-! SUPPORT. One lemma per operation of the object unit that says once everything it can do. -/

namespace Sys2Proof.Machine

open Sys2Proof

/-! The header -/

/-- The table of rule R106 (30_encoding.md): each qualifier code with the row it selects. -/
def qualRows : List (Byte × QualRow) :=
  [(0x00, ⟨.ranged, 1, .none, 5⟩), (0x01, ⟨.ranged, 2, .none, 7⟩), (0x02, ⟨.ranged, 4, .none, 11⟩)] ++
  [(0x06, ⟨.all, 0, .none, 3⟩)] ++
  [(0x07, ⟨.count, 1, .none, 4⟩), (0x08, ⟨.count, 2, .none, 5⟩), (0x09, ⟨.count, 4, .none, 7⟩)] ++
  [(0x17, ⟨.countIndex, 1, .one, 4⟩), (0x28, ⟨.countIndex, 2, .two, 5⟩), (0x39, ⟨.countIndex, 4, .four, 7⟩)]

/-- A qualifier code has a row just when the table lists it, and then it is the listed one. -/
theorem qualRow_eq_some {q : Byte} {row : QualRow} : qualRow q = some row ↔ (q, row) ∈ qualRows := by
  refine ⟨fun h => ?_, fun h => (by decide : ∀ e ∈ qualRows, qualRow e.1 = some e.2) (q, row) h⟩
  have e : q = BitVec.ofNat 8 q.toNat := BitVec.eq_of_toNat_eq (by simp)
  unfold qualRow at h
  split at h <;> rename_i n <;> cases h <;> (rw [n] at e; subst e; decide)

/-- What the rows of the table have in common: the header is three bytes and the fields its type has. -/
abbrev QualRow.Shape (row : QualRow) : Prop :=
  row.hdrlen ≤ 11 ∧ 3 ≤ row.hdrlen ∧
  ((row.htype = .ranged ∧ row.hdrlen = 3 + 2 * row.rw ∧ row.pfx = .none ∧ row.rw ≤ 4 ∧ 1 ≤ row.rw) ∨
   (row.htype = .all ∧ row.hdrlen = 3 ∧ row.pfx = .none) ∨
   (row.htype = .count ∧ row.hdrlen = 3 + row.rw ∧ row.pfx = .none ∧ row.rw ≤ 4) ∨
   (row.htype = .countIndex ∧ row.hdrlen = 3 + row.rw ∧ row.pfx.bytes = row.rw ∧ row.rw ≤ 4 ∧ 1 ≤ row.rw))

/-- A row that a qualifier code selects has that shape. -/
theorem qualRow_shape {q : Byte} {row : QualRow} (h : qualRow q = some row) : row.Shape :=
  (by decide : ∀ e ∈ qualRows, e.2.Shape) (q, row) (qualRow_eq_some.1 h)

/-- Everything the range or count field can give. -/
theorem QualRow.range_cases (row : QualRow) (f : List Byte) :
    (row.htype = .ranged ∧ le ((f.drop row.rw).take row.rw) < le (f.take row.rw) ∧
      row.range f = .error ⟨.badRange,
        BitVec.ofNat 64 (le ((f.drop row.rw).take row.rw) * 2 ^ 32 + le (f.take row.rw))⟩) ∨
    (row.htype = .ranged ∧ le (f.take row.rw) ≤ le ((f.drop row.rw).take row.rw) ∧
      row.range f = .ok (BitVec.ofNat 32 (le (f.take row.rw)),
        le ((f.drop row.rw).take row.rw) - le (f.take row.rw) + 1)) ∨
    (row.htype = .all ∧ row.range f = .ok (0, 0)) ∨
    ((row.htype = .count ∨ row.htype = .countIndex) ∧ row.range f = .ok (0, le f)) := by
  unfold QualRow.range
  cases h : row.htype
  · by_cases hs : le ((f.drop row.rw).take row.rw) < le (f.take row.rw)
    · exact .inl ⟨rfl, hs, by simp [hs]⟩
    · exact .inr (.inl ⟨rfl, by omega, by simp [hs]⟩)
  · simp
  · simp
  · simp

/-- The header that a row and its range or count field make. -/
def QualRow.header (row : QualRow) (m : Memory) (otype : ObjType) (osize : Half) (a : Nat) (start : Word)
    (count : Nat) : HeaderInfo where
  group := m.read a
  var := m.read (a + 1)
  qual := m.read (a + 2)
  htype := row.htype
  otype := otype
  osize := osize
  pfx := row.pfx
  count := count
  start := start
  hdrlen := BitVec.ofNat 4 row.hdrlen

/-- Everything the header parser can do. -/
theorem parseHeader_cases (otype : ObjType) (osize : Half) (addr : Word) (s : State) :
    (s.cfg.bufSize < addr.toNat + 3 ∧ parseHeader otype osize addr s = .error (bufRange addr.toNat)) ∨
    (addr.toNat + 3 ≤ s.cfg.bufSize ∧ qualRow (s.buf.read (addr.toNat + 2)) = none ∧
      parseHeader otype osize addr s = .error ⟨.badQualifier, (s.buf.read (addr.toNat + 2)).setWidth 64⟩) ∨
    (∃ row, addr.toNat + 3 ≤ s.cfg.bufSize ∧ qualRow (s.buf.read (addr.toNat + 2)) = some row ∧
      s.cfg.bufSize < addr.toNat + row.hdrlen ∧
      parseHeader otype osize addr s = .error (bufRange (addr.toNat + 3))) ∨
    (∃ row r, qualRow (s.buf.read (addr.toNat + 2)) = some row ∧ addr.toNat + row.hdrlen ≤ s.cfg.bufSize ∧
      row.range (s.buf.readBytes (addr.toNat + 3) (row.hdrlen - 3)) = .error r ∧
      parseHeader otype osize addr s = .error r) ∨
    (∃ row start count, qualRow (s.buf.read (addr.toNat + 2)) = some row ∧ addr.toNat + row.hdrlen ≤ s.cfg.bufSize ∧
      row.range (s.buf.readBytes (addr.toNat + 3) (row.hdrlen - 3)) = .ok (start, count) ∧
      parseHeader otype osize addr s = .ok (row.header s.buf otype osize addr.toNat start count)) := by
  have hb : s.buf.readBytes addr.toNat 3 =
      [s.buf.read addr.toNat, s.buf.read (addr.toNat + 1), s.buf.read (addr.toNat + 2)] := by
    simp [Memory.readBytes]
  unfold parseHeader
  by_cases h3 : addr.toNat + 3 ≤ s.cfg.bufSize
  · rw [State.memRead_in h3, hb]
    simp only [List.getD_cons_zero, List.getD_cons_succ]
    cases hq : qualRow (s.buf.read (addr.toNat + 2)) with
    | none => exact .inr (.inl ⟨h3, rfl, rfl⟩)
    | some row =>
      obtain ⟨-, hlo, -⟩ := qualRow_shape hq
      by_cases hr : addr.toNat + row.hdrlen ≤ s.cfg.bufSize
      · refine .inr (.inr (.inr ?_))
        simp only
        rw [State.memRead_in (by omega)]
        cases hf : row.range (s.buf.readBytes (addr.toNat + 3) (row.hdrlen - 3)) with
        | error r => exact .inl ⟨row, r, rfl, hr, hf, by simp only [hf]⟩
        | ok p =>
          obtain ⟨start, count⟩ := p
          exact .inr ⟨row, start, count, rfl, hr, hf, by simp only [hf]; rfl⟩
      · refine .inr (.inr (.inl ⟨row, h3, rfl, by omega, ?_⟩))
        simp only
        rw [State.memRead_out (by omega) (by omega)]
  · rw [State.memRead_out (by decide) (by omega)]
    exact .inl ⟨by omega, rfl⟩

/-! The iterator -/

/-- Everything `CalcIndex` can do. -/
theorem calcIndex_cases (s : State) (h : HeaderInfo) (p n : Nat) :
    (h.htype = .ranged ∧ calcIndex s h p n = .ok (BitVec.ofNat 32 (h.start.toNat + n))) ∨
    ((h.htype = .all ∨ h.htype = .count) ∧ calcIndex s h p n = .ok (BitVec.ofNat 32 n)) ∨
    (h.htype = .countIndex ∧ (h.pfx.bytes = 0 ∨ p + h.pfx.bytes ≤ s.cfg.bufSize) ∧
      calcIndex s h p n = .ok (BitVec.ofNat 32 (le (s.buf.readBytes p h.pfx.bytes)))) ∨
    (h.htype = .countIndex ∧ h.pfx.bytes ≠ 0 ∧ s.cfg.bufSize < p + h.pfx.bytes ∧
      calcIndex s h p n = .error (bufRange p)) := by
  unfold calcIndex
  cases hh : h.htype
  · simp
  · simp
  · simp
  · simp only [reduceCtorEq, false_and, false_or, or_self, true_and]
    cases hm : s.memRead p h.pfx.bytes with
    | ok b => obtain ⟨h1, h2⟩ := State.memRead_eq_ok.1 hm; exact .inl ⟨h1, by rw [h2]⟩
    | error r => obtain ⟨h1, h2, h3⟩ := State.memRead_eq_error.1 hm; exact .inr ⟨h1, h2, by rw [h3]⟩

/-- Everything a placement can do: it gives an iterator at object `n`, or it raises out of `BUF`. -/
theorem placeAt_eq_ok {s : State} {h : HeaderInfo} {d : Bool} {p n : Nat} {i : Iter} :
    placeAt s h d p n = .ok i ↔ ∃ x, calcIndex s h p n = .ok x ∧
      i = ⟨h, n, d, BitVec.ofNat 64 p, BitVec.ofNat 64 (p + h.pfx.bytes), x, h.start⟩ := by
  unfold placeAt
  cases calcIndex s h p n with
  | ok x => simp [eq_comm]
  | error r => simp

theorem placeAt_eq_error {s : State} {h : HeaderInfo} {d : Bool} {p n : Nat} {r : Raise} :
    placeAt s h d p n = .error r ↔ h.htype = .countIndex ∧ h.pfx.bytes ≠ 0 ∧
      s.cfg.bufSize < p + h.pfx.bytes ∧ r = bufRange p := by
  unfold placeAt
  rcases calcIndex_cases s h p n with ⟨h1, h2⟩ | ⟨h1 | h1, h2⟩ | ⟨h1, h3, h2⟩ | ⟨h1, h3, h4, h2⟩
  · rw [h2]; simp [h1]
  · rw [h2]; simp [h1]
  · rw [h2]; simp [h1]
  · rw [h2]
    simp only [h1, true_and, reduceCtorEq, false_iff, not_and]
    omega
  · rw [h2]; simp [h1, h3, h4, eq_comm]

/-- Everything `OI.INIT` can make of a header it does not refuse. -/
theorem startIter_cases (s : State) (h : HeaderInfo) (d : Bool) (a : Word) :
    (0 < h.count ∧ startIter s h d a = placeAt s h d (if d then a.toNat else 0) 0) ∨
    (h.count = 0 ∧ startIter s h d a =
      .ok ⟨h, 0, d, BitVec.ofNat 64 (if d then a.toNat else 0),
        BitVec.ofNat 64 ((if d then a.toNat else 0) + h.pfx.bytes), 0, h.start⟩) := by
  unfold startIter
  by_cases hc : 0 < h.count
  · exact .inl ⟨hc, by simp [hc]⟩
  · exact .inr ⟨by omega, by simp [hc]⟩

theorem iterInit_cases (d : Bool) (a : Word) (s : State) :
    (initRefused s.hi d = true ∧ iterInit d a s = .error ⟨.argRange, s.hi.qual.setWidth 64⟩) ∨
    (initRefused s.hi d = false ∧ ∃ r, startIter s s.hi d a = .error r ∧ iterInit d a s = .error r) ∨
    (initRefused s.hi d = false ∧ ∃ i, startIter s s.hi d a = .ok i ∧
      iterInit d a s = .ok ({ s with it := i }.respond (BitVec.ofNat 64 s.hi.count))) := by
  unfold iterInit
  cases hr : initRefused s.hi d
  · cases hs : startIter s s.hi d a with
    | error r => exact .inr (.inl ⟨rfl, r, rfl, by simp⟩)
    | ok i => exact .inr (.inr ⟨rfl, i, rfl, by simp⟩)
  · exact .inl ⟨rfl, by simp⟩

/-- Everything an advance can do. -/
theorem advance_cases (s : State) (i : Iter) :
    (i.h.count ≤ i.n ∧ advance s i = .error (pastEnd i)) ∨
    (i.n + 1 < i.h.count ∧ advance s i = placeAt s i.h i.hasData i.nextPfxPos (i.n + 1)) ∨
    (i.n + 1 = i.h.count ∧ advance s i = .ok { i with n := i.n + 1 }) := by
  unfold advance Iter.atEnd
  by_cases h1 : i.h.count ≤ i.n
  · exact .inl ⟨h1, by simp [h1]⟩
  · by_cases h2 : i.n + 1 < i.h.count
    · exact .inr (.inl ⟨h2, by simp [h1, h2]⟩)
    · exact .inr (.inr ⟨by omega, by simp [h1, h2]⟩)

theorem iterInc_cases (s : State) :
    (∃ r, advance s s.it = .error r ∧ iterInc s = .error r) ∨
    (∃ i, advance s s.it = .ok i ∧ iterInc s = .ok ({ s with it := i }.respond (flag64 i.atEnd))) := by
  unfold iterInc
  cases advance s s.it <;> simp

theorem iterPostInc_cases (s : State) :
    (∃ r, advance s s.it = .error r ∧ iterPostInc s = .error r) ∨
    (∃ i, advance s s.it = .ok i ∧
      iterPostInc s = .ok ({ s with it := i, its := s.it }.respond (flag64 i.atEnd))) := by
  unfold iterPostInc
  cases advance s s.it <;> simp

end Sys2Proof.Machine
end

