-- ==== Sys2Proof/Laws/PerInstr.lean ====
section
/-! SUPPORT. The statements about every instruction as syntax, one lemma per constructor of Instr. -/

namespace Sys2Proof.Laws.EncodedWordSelectsRow

open Sys2Proof

/-- The encoded command word of an instruction is selected by a row of the opcode table, and that row carries the
instruction's mnemonic (30_encoding.md R98). -/
def Statement (i : Instr) : Prop := ∃ r ∈ opcodeTable, r.mnemonic = i.mnemonic ∧ r.selects (encode i).cw = true

/-- A row selects the word it consists of. -/
theorem selects_word {r : Row} {i : Instr} {w : Word} (hi : i.word = w) (hw : w = r.pattern)
    (h : r.pattern &&& r.mask = r.pattern) : r.selects (encode i).cw = true := by
  subst hi
  exact decide_eq_true (by rw [encode, hw, h])

theorem rdU8 (addr : Word) : Statement (.rdU8 addr) :=
  ⟨⟨"RD.U8", 0x00000000#32, 0xFFFFFFFF#32⟩, by decide, rfl, selects_word (w := 0x00#8 ++ 0#24) rfl (by decide) (by decide)⟩

theorem rdI8 (addr : Word) : Statement (.rdI8 addr) :=
  ⟨⟨"RD.I8", 0x01000000#32, 0xFFFFFFFF#32⟩, by decide, rfl, selects_word (w := 0x01#8 ++ 0#24) rfl (by decide) (by decide)⟩

theorem rdU16LE (addr : Word) : Statement (.rdU16LE addr) :=
  ⟨⟨"RD.U16LE", 0x02000000#32, 0xFFFFFFFF#32⟩, by decide, rfl, selects_word (w := 0x02#8 ++ 0#24) rfl (by decide) (by decide)⟩

theorem rdU16BE (addr : Word) : Statement (.rdU16BE addr) :=
  ⟨⟨"RD.U16BE", 0x12000000#32, 0xFFFFFFFF#32⟩, by decide, rfl, selects_word (w := 0x12#8 ++ 0#24) rfl (by decide) (by decide)⟩

theorem rdI16LE (addr : Word) : Statement (.rdI16LE addr) :=
  ⟨⟨"RD.I16LE", 0x03000000#32, 0xFFFFFFFF#32⟩, by decide, rfl, selects_word (w := 0x03#8 ++ 0#24) rfl (by decide) (by decide)⟩

theorem rdI16BE (addr : Word) : Statement (.rdI16BE addr) :=
  ⟨⟨"RD.I16BE", 0x13000000#32, 0xFFFFFFFF#32⟩, by decide, rfl, selects_word (w := 0x13#8 ++ 0#24) rfl (by decide) (by decide)⟩

theorem rdU32LE (addr : Word) : Statement (.rdU32LE addr) :=
  ⟨⟨"RD.U32LE", 0x04000000#32, 0xFFFFFFFF#32⟩, by decide, rfl, selects_word (w := 0x04#8 ++ 0#24) rfl (by decide) (by decide)⟩

theorem rdU32BE (addr : Word) : Statement (.rdU32BE addr) :=
  ⟨⟨"RD.U32BE", 0x14000000#32, 0xFFFFFFFF#32⟩, by decide, rfl, selects_word (w := 0x14#8 ++ 0#24) rfl (by decide) (by decide)⟩

theorem rdI32LE (addr : Word) : Statement (.rdI32LE addr) :=
  ⟨⟨"RD.I32LE", 0x05000000#32, 0xFFFFFFFF#32⟩, by decide, rfl, selects_word (w := 0x05#8 ++ 0#24) rfl (by decide) (by decide)⟩

theorem rdI32BE (addr : Word) : Statement (.rdI32BE addr) :=
  ⟨⟨"RD.I32BE", 0x15000000#32, 0xFFFFFFFF#32⟩, by decide, rfl, selects_word (w := 0x15#8 ++ 0#24) rfl (by decide) (by decide)⟩

theorem rdU48LE (addr : Word) : Statement (.rdU48LE addr) :=
  ⟨⟨"RD.U48LE", 0x06000000#32, 0xFFFFFFFF#32⟩, by decide, rfl, selects_word (w := 0x06#8 ++ 0#24) rfl (by decide) (by decide)⟩

theorem rdU48BE (addr : Word) : Statement (.rdU48BE addr) :=
  ⟨⟨"RD.U48BE", 0x16000000#32, 0xFFFFFFFF#32⟩, by decide, rfl, selects_word (w := 0x16#8 ++ 0#24) rfl (by decide) (by decide)⟩

theorem rdU64LE (addr : Word) : Statement (.rdU64LE addr) :=
  ⟨⟨"RD.U64LE", 0x08000000#32, 0xFFFFFFFF#32⟩, by decide, rfl, selects_word (w := 0x08#8 ++ 0#24) rfl (by decide) (by decide)⟩

theorem rdU64BE (addr : Word) : Statement (.rdU64BE addr) :=
  ⟨⟨"RD.U64BE", 0x18000000#32, 0xFFFFFFFF#32⟩, by decide, rfl, selects_word (w := 0x18#8 ++ 0#24) rfl (by decide) (by decide)⟩

theorem rdI64LE (addr : Word) : Statement (.rdI64LE addr) :=
  ⟨⟨"RD.I64LE", 0x09000000#32, 0xFFFFFFFF#32⟩, by decide, rfl, selects_word (w := 0x09#8 ++ 0#24) rfl (by decide) (by decide)⟩

theorem rdI64BE (addr : Word) : Statement (.rdI64BE addr) :=
  ⟨⟨"RD.I64BE", 0x19000000#32, 0xFFFFFFFF#32⟩, by decide, rfl, selects_word (w := 0x19#8 ++ 0#24) rfl (by decide) (by decide)⟩

theorem rdF32LE (addr : Word) : Statement (.rdF32LE addr) :=
  ⟨⟨"RD.F32LE", 0x0A000000#32, 0xFFFFFFFF#32⟩, by decide, rfl, selects_word (w := 0x0A#8 ++ 0#24) rfl (by decide) (by decide)⟩

theorem rdF32BE (addr : Word) : Statement (.rdF32BE addr) :=
  ⟨⟨"RD.F32BE", 0x1A000000#32, 0xFFFFFFFF#32⟩, by decide, rfl, selects_word (w := 0x1A#8 ++ 0#24) rfl (by decide) (by decide)⟩

theorem rdF64LE (addr : Word) : Statement (.rdF64LE addr) :=
  ⟨⟨"RD.F64LE", 0x0B000000#32, 0xFFFFFFFF#32⟩, by decide, rfl, selects_word (w := 0x0B#8 ++ 0#24) rfl (by decide) (by decide)⟩

theorem rdF64BE (addr : Word) : Statement (.rdF64BE addr) :=
  ⟨⟨"RD.F64BE", 0x1B000000#32, 0xFFFFFFFF#32⟩, by decide, rfl, selects_word (w := 0x1B#8 ++ 0#24) rfl (by decide) (by decide)⟩

theorem wrU8 (addr : Word) (value : DWord) : Statement (.wrU8 addr value) :=
  ⟨⟨"WR.U8", 0x20000000#32, 0xFFFFFFFF#32⟩, by decide, rfl, selects_word (w := 0x20#8 ++ 0#24) rfl (by decide) (by decide)⟩

theorem wrI8 (addr : Word) (value : DWord) : Statement (.wrI8 addr value) :=
  ⟨⟨"WR.I8", 0x21000000#32, 0xFFFFFFFF#32⟩, by decide, rfl, selects_word (w := 0x21#8 ++ 0#24) rfl (by decide) (by decide)⟩

theorem wrU16LE (addr : Word) (value : DWord) : Statement (.wrU16LE addr value) :=
  ⟨⟨"WR.U16LE", 0x22000000#32, 0xFFFFFFFF#32⟩, by decide, rfl, selects_word (w := 0x22#8 ++ 0#24) rfl (by decide) (by decide)⟩

theorem wrU16BE (addr : Word) (value : DWord) : Statement (.wrU16BE addr value) :=
  ⟨⟨"WR.U16BE", 0x32000000#32, 0xFFFFFFFF#32⟩, by decide, rfl, selects_word (w := 0x32#8 ++ 0#24) rfl (by decide) (by decide)⟩

theorem wrI16LE (addr : Word) (value : DWord) : Statement (.wrI16LE addr value) :=
  ⟨⟨"WR.I16LE", 0x23000000#32, 0xFFFFFFFF#32⟩, by decide, rfl, selects_word (w := 0x23#8 ++ 0#24) rfl (by decide) (by decide)⟩

theorem wrI16BE (addr : Word) (value : DWord) : Statement (.wrI16BE addr value) :=
  ⟨⟨"WR.I16BE", 0x33000000#32, 0xFFFFFFFF#32⟩, by decide, rfl, selects_word (w := 0x33#8 ++ 0#24) rfl (by decide) (by decide)⟩

theorem wrU32LE (addr : Word) (value : DWord) : Statement (.wrU32LE addr value) :=
  ⟨⟨"WR.U32LE", 0x24000000#32, 0xFFFFFFFF#32⟩, by decide, rfl, selects_word (w := 0x24#8 ++ 0#24) rfl (by decide) (by decide)⟩

theorem wrU32BE (addr : Word) (value : DWord) : Statement (.wrU32BE addr value) :=
  ⟨⟨"WR.U32BE", 0x34000000#32, 0xFFFFFFFF#32⟩, by decide, rfl, selects_word (w := 0x34#8 ++ 0#24) rfl (by decide) (by decide)⟩

theorem wrI32LE (addr : Word) (value : DWord) : Statement (.wrI32LE addr value) :=
  ⟨⟨"WR.I32LE", 0x25000000#32, 0xFFFFFFFF#32⟩, by decide, rfl, selects_word (w := 0x25#8 ++ 0#24) rfl (by decide) (by decide)⟩

theorem wrI32BE (addr : Word) (value : DWord) : Statement (.wrI32BE addr value) :=
  ⟨⟨"WR.I32BE", 0x35000000#32, 0xFFFFFFFF#32⟩, by decide, rfl, selects_word (w := 0x35#8 ++ 0#24) rfl (by decide) (by decide)⟩

theorem wrU48LE (addr : Word) (value : DWord) : Statement (.wrU48LE addr value) :=
  ⟨⟨"WR.U48LE", 0x26000000#32, 0xFFFFFFFF#32⟩, by decide, rfl, selects_word (w := 0x26#8 ++ 0#24) rfl (by decide) (by decide)⟩

theorem wrU48BE (addr : Word) (value : DWord) : Statement (.wrU48BE addr value) :=
  ⟨⟨"WR.U48BE", 0x36000000#32, 0xFFFFFFFF#32⟩, by decide, rfl, selects_word (w := 0x36#8 ++ 0#24) rfl (by decide) (by decide)⟩

theorem wrU64LE (addr : Word) (value : DWord) : Statement (.wrU64LE addr value) :=
  ⟨⟨"WR.U64LE", 0x28000000#32, 0xFFFFFFFF#32⟩, by decide, rfl, selects_word (w := 0x28#8 ++ 0#24) rfl (by decide) (by decide)⟩

theorem wrU64BE (addr : Word) (value : DWord) : Statement (.wrU64BE addr value) :=
  ⟨⟨"WR.U64BE", 0x38000000#32, 0xFFFFFFFF#32⟩, by decide, rfl, selects_word (w := 0x38#8 ++ 0#24) rfl (by decide) (by decide)⟩

theorem wrI64LE (addr : Word) (value : DWord) : Statement (.wrI64LE addr value) :=
  ⟨⟨"WR.I64LE", 0x29000000#32, 0xFFFFFFFF#32⟩, by decide, rfl, selects_word (w := 0x29#8 ++ 0#24) rfl (by decide) (by decide)⟩

theorem wrI64BE (addr : Word) (value : DWord) : Statement (.wrI64BE addr value) :=
  ⟨⟨"WR.I64BE", 0x39000000#32, 0xFFFFFFFF#32⟩, by decide, rfl, selects_word (w := 0x39#8 ++ 0#24) rfl (by decide) (by decide)⟩

theorem wrF32LE (addr : Word) (value : DWord) : Statement (.wrF32LE addr value) :=
  ⟨⟨"WR.F32LE", 0x2A000000#32, 0xFFFFFFFF#32⟩, by decide, rfl, selects_word (w := 0x2A#8 ++ 0#24) rfl (by decide) (by decide)⟩

theorem wrF32BE (addr : Word) (value : DWord) : Statement (.wrF32BE addr value) :=
  ⟨⟨"WR.F32BE", 0x3A000000#32, 0xFFFFFFFF#32⟩, by decide, rfl, selects_word (w := 0x3A#8 ++ 0#24) rfl (by decide) (by decide)⟩

theorem wrF64LE (addr : Word) (value : DWord) : Statement (.wrF64LE addr value) :=
  ⟨⟨"WR.F64LE", 0x2B000000#32, 0xFFFFFFFF#32⟩, by decide, rfl, selects_word (w := 0x2B#8 ++ 0#24) rfl (by decide) (by decide)⟩

theorem wrF64BE (addr : Word) (value : DWord) : Statement (.wrF64BE addr value) :=
  ⟨⟨"WR.F64BE", 0x3B000000#32, 0xFFFFFFFF#32⟩, by decide, rfl, selects_word (w := 0x3B#8 ++ 0#24) rfl (by decide) (by decide)⟩

theorem lhSet (len ctrl : Byte) (dest src : Half) : Statement (.lhSet len ctrl dest src) := by
  refine ⟨⟨"LH.SET", 0x40000000#32, 0xFFFF0000#32⟩, by decide, rfl, ?_⟩
  refine decide_eq_true ?_
  simp only [encode, Instr.word, Instr.opcode, Instr.arg]
  apply BitVec.eq_of_getLsbD_eq
  intro k hk
  rw [BitVec.getLsbD_and, BitVec.getLsbD_append]
  simp only [BitVec.getLsbD_append]
  interval_cases k <;> simp

theorem lhGet : Statement .lhGet :=
  ⟨⟨"LH.GET", 0x41000000#32, 0xFFFFFFFF#32⟩, by decide, rfl, selects_word (w := 0x41#8 ++ 0#24) rfl (by decide) (by decide)⟩

theorem lhRead (addr : Word) : Statement (.lhRead addr) :=
  ⟨⟨"LH.READ", 0x42000000#32, 0xFFFFFFFF#32⟩, by decide, rfl, selects_word (w := 0x42#8 ++ 0#24) rfl (by decide) (by decide)⟩

theorem lhWrite (addr : Word) : Statement (.lhWrite addr) :=
  ⟨⟨"LH.WRITE", 0x43000000#32, 0xFFFFFFFF#32⟩, by decide, rfl, selects_word (w := 0x43#8 ++ 0#24) rfl (by decide) (by decide)⟩

theorem lhCtrl (dir fcb fcv : Bool) (func : Byte) : Statement (.lhCtrl dir fcb fcv func) := by
  refine ⟨⟨"LH.CTRL", 0x44000000#32, 0xFFFFF800#32⟩, by decide, rfl, ?_⟩
  refine decide_eq_true ?_
  simp only [encode, Instr.word, Instr.opcode, Instr.arg]
  apply BitVec.eq_of_getLsbD_eq
  intro k hk
  rw [BitVec.getLsbD_and, BitVec.getLsbD_append]
  simp only [BitVec.getLsbD_append]
  interval_cases k <;> simp

theorem lhChfcb (fcb : Bool) : Statement (.lhChfcb fcb) := by
  refine ⟨⟨"LH.CHFCB", 0x45000000#32, 0xFFFFFFFE#32⟩, by decide, rfl, ?_⟩
  refine decide_eq_true ?_
  simp only [encode, Instr.word, Instr.opcode, Instr.arg]
  apply BitVec.eq_of_getLsbD_eq
  intro k hk
  rw [BitVec.getLsbD_and, BitVec.getLsbD_append]
  simp only [BitVec.getLsbD_append]
  interval_cases k <;> simp

theorem lhFunc : Statement .lhFunc :=
  ⟨⟨"LH.FUNC", 0x46000000#32, 0xFFFFFFFF#32⟩, by decide, rfl, selects_word (w := 0x46#8 ++ 0#24) rfl (by decide) (by decide)⟩

theorem crcCalc (addr : Word) (len : DWord) : Statement (.crcCalc addr len) :=
  ⟨⟨"CRC.CALC", 0x47000000#32, 0xFFFFFFFF#32⟩, by decide, rfl, selects_word (w := 0x47#8 ++ 0#24) rfl (by decide) (by decide)⟩

theorem tlUp : Statement .tlUp :=
  ⟨⟨"TL.UP", 0x50000000#32, 0xFFFFFFFF#32⟩, by decide, rfl, selects_word (w := 0x50#8 ++ 0#24) rfl (by decide) (by decide)⟩

theorem tlDown : Statement .tlDown :=
  ⟨⟨"TL.DOWN", 0x51000000#32, 0xFFFFFFFF#32⟩, by decide, rfl, selects_word (w := 0x51#8 ++ 0#24) rfl (by decide) (by decide)⟩

theorem tlSend (addr : Word) (len : DWord) : Statement (.tlSend addr len) :=
  ⟨⟨"TL.SEND", 0x52000000#32, 0xFFFFFFFF#32⟩, by decide, rfl, selects_word (w := 0x52#8 ++ 0#24) rfl (by decide) (by decide)⟩

theorem tlRecv (addr : Word) (len : DWord) : Statement (.tlRecv addr len) :=
  ⟨⟨"TL.RECV", 0x53000000#32, 0xFFFFFFFF#32⟩, by decide, rfl, selects_word (w := 0x53#8 ++ 0#24) rfl (by decide) (by decide)⟩

theorem tlSucc : Statement .tlSucc :=
  ⟨⟨"TL.SUCC", 0x54000000#32, 0xFFFFFFFF#32⟩, by decide, rfl, selects_word (w := 0x54#8 ++ 0#24) rfl (by decide) (by decide)⟩

theorem tlFail : Statement .tlFail :=
  ⟨⟨"TL.FAIL", 0x55000000#32, 0xFFFFFFFF#32⟩, by decide, rfl, selects_word (w := 0x55#8 ++ 0#24) rfl (by decide) (by decide)⟩

theorem ohParse (otype : ObjType) (osize : Half) (addr : Word) : Statement (.ohParse otype osize addr) := by
  refine ⟨⟨"OH.PARSE", 0x60000000#32, 0xFFFE0000#32⟩, by decide, rfl, ?_⟩
  refine decide_eq_true ?_
  simp only [encode, Instr.word, Instr.opcode, Instr.arg]
  apply BitVec.eq_of_getLsbD_eq
  intro k hk
  rw [BitVec.getLsbD_and, BitVec.getLsbD_append]
  simp only [BitVec.getLsbD_append]
  interval_cases k <;> simp

theorem oiInit (hasdata : Bool) (dataaddr : Word) : Statement (.oiInit hasdata dataaddr) := by
  refine ⟨⟨"OI.INIT", 0x61000000#32, 0xFFFFFFFE#32⟩, by decide, rfl, ?_⟩
  refine decide_eq_true ?_
  simp only [encode, Instr.word, Instr.opcode, Instr.arg]
  apply BitVec.eq_of_getLsbD_eq
  intro k hk
  rw [BitVec.getLsbD_and, BitVec.getLsbD_append]
  simp only [BitVec.getLsbD_append]
  interval_cases k <;> simp

theorem oiHasdata : Statement .oiHasdata :=
  ⟨⟨"OI.HASDATA", 0x62000000#32, 0xFFFFFFFF#32⟩, by decide, rfl, selects_word (w := 0x62#8 ++ 0#24) rfl (by decide) (by decide)⟩

theorem oiDeref : Statement .oiDeref :=
  ⟨⟨"OI.DEREF", 0x63000000#32, 0xFFFFFFFF#32⟩, by decide, rfl, selects_word (w := 0x63#8 ++ 0#24) rfl (by decide) (by decide)⟩

theorem oiInfo : Statement .oiInfo :=
  ⟨⟨"OI.INFO", 0x64000000#32, 0xFFFFFFFF#32⟩, by decide, rfl, selects_word (w := 0x64#8 ++ 0#24) rfl (by decide) (by decide)⟩

theorem oiInc : Statement .oiInc :=
  ⟨⟨"OI.INC", 0x65000000#32, 0xFFFFFFFF#32⟩, by decide, rfl, selects_word (w := 0x65#8 ++ 0#24) rfl (by decide) (by decide)⟩

theorem oiPinc : Statement .oiPinc :=
  ⟨⟨"OI.PINC", 0x66000000#32, 0xFFFFFFFF#32⟩, by decide, rfl, selects_word (w := 0x66#8 ++ 0#24) rfl (by decide) (by decide)⟩

theorem oiCount : Statement .oiCount :=
  ⟨⟨"OI.COUNT", 0x67000000#32, 0xFFFFFFFF#32⟩, by decide, rfl, selects_word (w := 0x67#8 ++ 0#24) rfl (by decide) (by decide)⟩

theorem oiIsend : Statement .oiIsend :=
  ⟨⟨"OI.ISEND", 0x68000000#32, 0xFFFFFFFF#32⟩, by decide, rfl, selects_word (w := 0x68#8 ++ 0#24) rfl (by decide) (by decide)⟩

theorem oiSwap : Statement .oiSwap :=
  ⟨⟨"OI.SWAP", 0x69000000#32, 0xFFFFFFFF#32⟩, by decide, rfl, selects_word (w := 0x69#8 ++ 0#24) rfl (by decide) (by decide)⟩

theorem sysStat : Statement .sysStat :=
  ⟨⟨"SYS.STAT", 0x70000000#32, 0xFFFFFFFF#32⟩, by decide, rfl, selects_word (w := 0x70#8 ++ 0#24) rfl (by decide) (by decide)⟩

theorem sysReset : Statement .sysReset :=
  ⟨⟨"SYS.RESET", 0x71000000#32, 0xFFFFFFFF#32⟩, by decide, rfl, selects_word (w := 0x71#8 ++ 0#24) rfl (by decide) (by decide)⟩

theorem sysFinfo : Statement .sysFinfo :=
  ⟨⟨"SYS.FINFO", 0x72000000#32, 0xFFFFFFFF#32⟩, by decide, rfl, selects_word (w := 0x72#8 ++ 0#24) rfl (by decide) (by decide)⟩

end Sys2Proof.Laws.EncodedWordSelectsRow
end

