-- ==== Sys2Proof/Laws/Transport.lean ====
section
/-! SUPPORT. One lemma per operation of the transport unit that says once everything it can do. -/

namespace Sys2Proof.Machine

open Sys2Proof

@[simp] theorem Receiver.stop_buf (r : Receiver) : r.stop.buf = r.buf := rfl
@[simp] theorem Receiver.stop_len (r : Receiver) : r.stop.len = 0 := rfl
@[simp] theorem Receiver.stop_seq (r : Receiver) : r.stop.seq = r.seq := rfl
@[simp] theorem Receiver.stop_active (r : Receiver) : r.stop.active = false := rfl

/-! The six answers (42_transport.md R233) -/

@[simp] theorem tlResult_closed_false : tlResult .closed false = 0x000 := by decide
@[simp] theorem tlResult_closed_true : tlResult .closed true = 0x100 := by decide
@[simp] theorem tlResult_ready_false : tlResult .ready false = 0x001 := by decide
@[simp] theorem tlResult_ready_true : tlResult .ready true = 0x101 := by decide
@[simp] theorem tlResult_sending_false : tlResult .sending false = 0x002 := by decide
@[simp] theorem tlResult_sending_true : tlResult .sending true = 0x102 := by decide

/-! Layer up, layer down, failure -/

/-- Everything `TL.UP` can do. -/
theorem layerUp_cases (s : State) :
    (s.tls = .closed ∧ layerUp s = { s with tls := .ready }.tlEmit .upperLayerUp) ∨
    (s.tls ≠ .closed ∧ layerUp s = s.tlIgnored) := by
  unfold layerUp
  cases h : s.tls <;> simp

/-- Everything `TL.DOWN` can do. -/
theorem layerDown_cases (s : State) :
    (s.tls = .closed ∧ layerDown s = s.tlIgnored) ∨
    (s.tls ≠ .closed ∧ layerDown s = { s with rx := s.rx.stop, tls := .closed }.tlEmit .upperLayerDown) := by
  unfold layerDown thisLayerDown
  cases h : s.tls <;> simp

/-- Everything `TL.FAIL` can do. -/
theorem sendFailure_cases (s : State) :
    (s.tls = .sending ∧ sendFailure s = { s with tls := .ready }.tlEmit .upperSendFailure) ∨
    (s.tls ≠ .sending ∧ sendFailure s = s.tlIgnored) := by
  unfold sendFailure
  cases h : s.tls <;> simp

/-! Transmit -/

theorem segmentSize_le (s : State) (len sent : Nat) : segmentSize s len sent ≤ len - sent := Nat.min_le_right _ _

/-- Everything `EmitSegment` can do. -/
theorem segment_eq (s : State) (base : Word) (len sent : Nat) (seq : Seq) :
    segment s base len sent seq =
      if segmentSize s len sent = 0 ∨ base.toNat + sent + segmentSize s len sent ≤ s.cfg.bufSize then
        .ok (segmentHeader (decide (sent + segmentSize s len sent = len)) (decide (sent = 0)) seq ::
          s.buf.readBytes (base.toNat + sent) (segmentSize s len sent))
      else .error (bufRange (base.toNat + sent)) := by
  unfold segment
  cases h : s.memRead (base.toNat + sent) (segmentSize s len sent) with
  | ok b =>
    obtain ⟨h1, h2⟩ := State.memRead_eq_ok.1 h
    rw [if_pos h1]
    simp only [h, h2]
  | error r =>
    obtain ⟨h1, h2, h3⟩ := State.memRead_eq_error.1 h
    rw [if_neg (by omega)]
    simp only [h, h3]

/-- A segment that lies inside `BUF` is emitted. -/
theorem segment_in {s : State} {base : Word} {len sent : Nat} (seq : Seq) (hs : sent ≤ len)
    (h : base.toNat + len ≤ s.cfg.bufSize) :
    segment s base len sent seq =
      .ok (segmentHeader (decide (sent + segmentSize s len sent = len)) (decide (sent = 0)) seq ::
        s.buf.readBytes (base.toNat + sent) (segmentSize s len sent)) := by
  have := segmentSize_le s len sent
  rw [segment_eq, if_pos (by omega)]

/-- Everything an accepted `TL.SEND` can do. -/
theorem acceptSend_eq (addr : Word) (len : Nat) (s : State) :
    acceptSend addr len s =
      if addr.toNat + len ≤ s.cfg.bufSize then
        .ok ({ s with tx := { s.tx with base := addr, len := len, sent := 0 }, tls := .sending }.tlEmit
          (.lowerSend (segmentHeader (decide (segmentSize s len 0 = len)) true s.tx.seq ::
            s.buf.readBytes addr.toNat (segmentSize s len 0))))
      else .error (bufRange addr.toNat) := by
  unfold acceptSend
  by_cases h : addr.toNat + len ≤ s.cfg.bufSize
  · rw [if_neg (by omega), if_pos h, segment_in s.tx.seq (Nat.zero_le len) h]
    simp
  · rw [if_pos (by omega), if_neg h]

/-- Everything `TL.SEND` can do. -/
theorem send_cases (addr : Word) (len : DWord) (s : State) :
    ((len = 0 ∨ s.cfg.fragSize < len.toNat) ∧ send addr len s = .error ⟨.argRange, len⟩) ∨
    (¬(len = 0 ∨ s.cfg.fragSize < len.toNat) ∧ s.tls ≠ .ready ∧ send addr len s = .ok s.tlIgnored) ∨
    (¬(len = 0 ∨ s.cfg.fragSize < len.toNat) ∧ s.tls = .ready ∧ send addr len s = acceptSend addr len.toNat s) := by
  unfold send
  by_cases h : len = 0 ∨ s.cfg.fragSize < len.toNat
  · exact .inl ⟨h, if_pos h⟩
  · refine .inr ?_
    rw [if_neg h]
    cases ht : s.tls
    · exact .inl ⟨h, by decide, rfl⟩
    · exact .inr ⟨h, rfl, rfl⟩
    · exact .inl ⟨h, by decide, rfl⟩

/-- The transmitter after a segment of `n` bytes completed (42_transport.md R238). -/
def Transmitter.advanced (t : Transmitter) (n : Nat) : Transmitter := ⟨t.base, t.len, t.sent + n, nextSeq t.seq⟩

/-- Everything a completion with success can do in Sending. -/
theorem segmentDone_cases (s : State) :
    (s.tx.sent + segmentSize s s.tx.len s.tx.sent < s.tx.len ∧ ∃ b,
      segment s s.tx.base s.tx.len (s.tx.sent + segmentSize s s.tx.len s.tx.sent) (nextSeq s.tx.seq) = .ok b ∧
      segmentDone s =
        .ok ({ s with tx := s.tx.advanced (segmentSize s s.tx.len s.tx.sent) }.tlEmit (.lowerSend b))) ∨
    (s.tx.sent + segmentSize s s.tx.len s.tx.sent < s.tx.len ∧ ∃ r,
      segment s s.tx.base s.tx.len (s.tx.sent + segmentSize s s.tx.len s.tx.sent) (nextSeq s.tx.seq) = .error r ∧
      segmentDone s = .error r) ∨
    (s.tx.len ≤ s.tx.sent + segmentSize s s.tx.len s.tx.sent ∧
      segmentDone s =
        .ok ({ s with tx := s.tx.advanced (segmentSize s s.tx.len s.tx.sent), tls := .ready }.tlEmit .upperSendSuccess)) := by
  unfold segmentDone
  by_cases h : s.tx.sent + segmentSize s s.tx.len s.tx.sent < s.tx.len
  · cases hs : segment s s.tx.base s.tx.len (s.tx.sent + segmentSize s s.tx.len s.tx.sent) (nextSeq s.tx.seq) with
    | ok b => exact .inl ⟨h, b, rfl, by simp [h, hs, Transmitter.advanced]⟩
    | error r => exact .inr (.inl ⟨h, r, rfl, by simp [h, hs]⟩)
  · exact .inr (.inr ⟨by omega, by simp [h, Transmitter.advanced]⟩)

/-- Everything `TL.SUCC` can do. -/
theorem sendSuccess_cases (s : State) :
    (s.tls = .sending ∧ sendSuccess s = segmentDone s) ∨ (s.tls ≠ .sending ∧ sendSuccess s = .ok s.tlIgnored) := by
  unfold sendSuccess
  cases h : s.tls <;> simp

/-! Receive -/

/-- Everything an append can do: the receiver stops, or takes the segment, or takes it and delivers. -/
theorem appendSegment_cases (s : State) (fin : Bool) (seq : Seq) (base : Nat) (p : List Byte) :
    (s.cfg.fragSize < base + p.length ∧ appendSegment s fin seq base p = { s with rx := s.rx.stop }.tlHandled) ∨
    (base + p.length ≤ s.cfg.fragSize ∧ fin = false ∧ appendSegment s fin seq base p =
      { s with rx := ⟨s.rx.buf.writeBytes base p, base + p.length, seq, true⟩ }.tlHandled) ∨
    (base + p.length ≤ s.cfg.fragSize ∧ fin = true ∧ appendSegment s fin seq base p =
      { s with rx := ⟨s.rx.buf.writeBytes base p, 0, seq, false⟩ }.tlEmit
        (.upperReceive ((s.rx.buf.writeBytes base p).readBytes 0 (base + p.length)))) := by
  unfold appendSegment
  by_cases h : s.cfg.fragSize < base + p.length
  · exact .inl ⟨h, by simp [h]⟩
  · cases fin
    · exact .inr (.inl ⟨by omega, rfl, by simp [h]⟩)
    · exact .inr (.inr ⟨by omega, rfl, by simp [h, Receiver.stop]⟩)

/-- Everything `Reassemble` can do. -/
theorem reassemble_cases (hdr : Byte) (p : List Byte) (s : State) :
    (hdr.getLsbD 6 = true ∧ reassemble hdr p s = appendSegment s (hdr.getLsbD 7) (hdr.extractLsb' 0 6) 0 p) ∨
    (hdr.getLsbD 6 = false ∧ s.rx.active = false ∧ reassemble hdr p s = s.tlHandled) ∨
    (hdr.getLsbD 6 = false ∧ s.rx.active = true ∧ hdr.extractLsb' 0 6 ≠ nextSeq s.rx.seq ∧
      reassemble hdr p s = { s with rx := s.rx.stop }.tlHandled) ∨
    (hdr.getLsbD 6 = false ∧ s.rx.active = true ∧ hdr.extractLsb' 0 6 = nextSeq s.rx.seq ∧
      reassemble hdr p s = appendSegment s (hdr.getLsbD 7) (hdr.extractLsb' 0 6) s.rx.len p) := by
  unfold reassemble
  cases h6 : hdr.getLsbD 6
  · cases ha : s.rx.active
    · simp
    · by_cases hq : hdr.extractLsb' 0 6 = nextSeq s.rx.seq <;> simp [hq]
  · simp

/-- Everything `TL.RECV` can do. -/
theorem receive_cases (addr : Word) (len : DWord) (s : State) :
    (s.tls = .closed ∧ receive addr len s = .ok s.tlIgnored) ∨
    (s.tls ≠ .closed ∧ len.toNat < 2 ∧ receive addr len s = .ok s.tlHandled) ∨
    (s.tls ≠ .closed ∧ 2 ≤ len.toNat ∧ s.cfg.bufSize < addr.toNat + len.toNat ∧
      receive addr len s = .error (bufRange addr.toNat)) ∨
    (s.tls ≠ .closed ∧ 2 ≤ len.toNat ∧ addr.toNat + len.toNat ≤ s.cfg.bufSize ∧
      receive addr len s =
        .ok (reassemble (s.buf.read addr.toNat) (s.buf.readBytes (addr.toNat + 1) (len.toNat - 1)) s)) := by
  have key : receiveTpdu addr len s =
      if len.toNat < 2 then .ok s.tlHandled
      else if s.cfg.bufSize < addr.toNat + len.toNat then .error (bufRange addr.toNat)
      else .ok (reassemble (s.buf.read addr.toNat) (s.buf.readBytes (addr.toNat + 1) (len.toNat - 1)) s) := by
    unfold receiveTpdu
    by_cases h2 : len.toNat < 2
    · simp [h2]
    · by_cases hr : s.cfg.bufSize < addr.toNat + len.toNat
      · simp only [h2, hr, if_true, if_false]
        rw [State.memRead_out (by omega) hr]
      · obtain ⟨k, hk⟩ : ∃ k, len.toNat = k + 1 := ⟨len.toNat - 1, by omega⟩
        simp only [h2, hr, if_false]
        rw [State.memRead_in (by omega), hk]
        simp [Memory.readBytes]
  by_cases hc : s.tls = .closed
  · exact .inl ⟨hc, by unfold receive; rw [hc]⟩
  · have hr : receive addr len s = receiveTpdu addr len s := by
      unfold receive
      cases h : s.tls
      · exact absurd h hc
      · rfl
      · rfl
    rw [hr, key]
    by_cases h2 : len.toNat < 2
    · exact .inr (.inl ⟨hc, h2, by simp [h2]⟩)
    · by_cases h3 : s.cfg.bufSize < addr.toNat + len.toNat
      · exact .inr (.inr (.inl ⟨hc, by omega, h3, by simp [h2, h3]⟩))
      · exact .inr (.inr (.inr ⟨hc, by omega, by omega, by simp [h2, h3]⟩))

end Sys2Proof.Machine
end

