-- ==== Sys2Proof/Tests/Slice0.lean ====
section
/-! SUPPORT. Tests: every expected value is one that spec/ prints (the worked examples of the instruction rules, the
encoding tables), and for each statement with hypotheses a concrete state and operands that meet them. -/

namespace Sys2Proof.Tests

open Sys2Proof Sys2Proof.Machine Sys2Proof.Claims

/-- Power-on with a small `BUF` (32 bytes), `FRAG_SIZE` 16, `SEG_PAYLOAD` 4, and these bytes from `a` on. -/
def small (a : Nat) (bytes : List Byte) : State := State.powerOn ⟨32, 16, 4⟩ (Memory.writeBytes [] a bytes) []

/-- The state after an instruction. -/
def after (i : Instr) (s : State) : State :=
  match exec i s with
  | .next t => t
  | .fault _ => s
  | .refused _ => s

/-- The state after instructions in order. -/
def afterAll (is : List Instr) (s : State) : State := is.foldl (fun s i => after i s) s

/-! ## WellFormed: each check refuses an ill-formed word -/

/-! An opcode outside the map (30_encoding.md R98). -/

theorem test_wf_opcode_07 : opcodeAssigned 0x07000000 = false := by decide

theorem test_wf_opcode_10 : opcodeAssigned 0x10000000 = false := by decide

theorem test_wf_opcode_6A : opcodeAssigned 0x6A000000 = false := by decide

/-! A 1 in an `ARG` bit that the row does not name (R92): the opcode is assigned, the word is not well-formed. -/

theorem test_wf_arg_26 : opcodeAssigned 0x26000001 = true ∧ wellFormedWord 0x26000001 = false := by decide

theorem test_wf_arg_40 : opcodeAssigned 0x40010000 = true ∧ wellFormedWord 0x40010000 = false := by decide

theorem test_wf_arg_44 : opcodeAssigned 0x44000800 = true ∧ wellFormedWord 0x44000800 = false := by decide

theorem test_wf_arg_45 : opcodeAssigned 0x45000002 = true ∧ wellFormedWord 0x45000002 = false := by decide

theorem test_wf_arg_61 : opcodeAssigned 0x61000002 = true ∧ wellFormedWord 0x61000002 = false := by decide

theorem test_wf_arg_60 : opcodeAssigned 0x60020000 = true ∧ wellFormedWord 0x60020000 = false := by decide

/-- The decoder refuses both kinds, each by its name. -/
theorem test_decode_refuses : decode ⟨0x07000000, 1, 2⟩ = .error .unassignedOpcode ∧
    decode ⟨0x44000800, 1, 2⟩ = .error .reservedArgBit := by decide

/-! ## Decode: the word of every row, written out from the encoding tables (30_encoding.md R92 to R98) -/

/-- Format C with `W` = 0: 00, `W`, `BE`, `TY`, then 24 zeros (R93, R94). -/
theorem test_decode_reads : ∀ p ∈ [
    (0b00000000000000000000000000000000#32, Instr.rdU8 7),
    (0b00000001000000000000000000000000#32, .rdI8 7),
    (0b00000010000000000000000000000000#32, .rdU16LE 7),
    (0b00010010000000000000000000000000#32, .rdU16BE 7),
    (0b00000011000000000000000000000000#32, .rdI16LE 7),
    (0b00010011000000000000000000000000#32, .rdI16BE 7),
    (0b00000100000000000000000000000000#32, .rdU32LE 7),
    (0b00010100000000000000000000000000#32, .rdU32BE 7),
    (0b00000101000000000000000000000000#32, .rdI32LE 7),
    (0b00010101000000000000000000000000#32, .rdI32BE 7),
    (0b00000110000000000000000000000000#32, .rdU48LE 7),
    (0b00010110000000000000000000000000#32, .rdU48BE 7),
    (0b00001000000000000000000000000000#32, .rdU64LE 7),
    (0b00011000000000000000000000000000#32, .rdU64BE 7),
    (0b00001001000000000000000000000000#32, .rdI64LE 7),
    (0b00011001000000000000000000000000#32, .rdI64BE 7),
    (0b00001010000000000000000000000000#32, .rdF32LE 7),
    (0b00011010000000000000000000000000#32, .rdF32BE 7),
    (0b00001011000000000000000000000000#32, .rdF64LE 7),
    (0b00011011000000000000000000000000#32, .rdF64BE 7)],
    decode ⟨p.1, 7, 9⟩ = .ok p.2 := by decide

/-- Format C with `W` = 1 (R93, R94). -/
theorem test_decode_writes : ∀ p ∈ [
    (0b00100000000000000000000000000000#32, Instr.wrU8 7 9),
    (0b00100001000000000000000000000000#32, .wrI8 7 9),
    (0b00100010000000000000000000000000#32, .wrU16LE 7 9),
    (0b00110010000000000000000000000000#32, .wrU16BE 7 9),
    (0b00100011000000000000000000000000#32, .wrI16LE 7 9),
    (0b00110011000000000000000000000000#32, .wrI16BE 7 9),
    (0b00100100000000000000000000000000#32, .wrU32LE 7 9),
    (0b00110100000000000000000000000000#32, .wrU32BE 7 9),
    (0b00100101000000000000000000000000#32, .wrI32LE 7 9),
    (0b00110101000000000000000000000000#32, .wrI32BE 7 9),
    (0b00100110000000000000000000000000#32, .wrU48LE 7 9),
    (0b00110110000000000000000000000000#32, .wrU48BE 7 9),
    (0b00101000000000000000000000000000#32, .wrU64LE 7 9),
    (0b00111000000000000000000000000000#32, .wrU64BE 7 9),
    (0b00101001000000000000000000000000#32, .wrI64LE 7 9),
    (0b00111001000000000000000000000000#32, .wrI64BE 7 9),
    (0b00101010000000000000000000000000#32, .wrF32LE 7 9),
    (0b00111010000000000000000000000000#32, .wrF32BE 7 9),
    (0b00101011000000000000000000000000#32, .wrF64LE 7 9),
    (0b00111011000000000000000000000000#32, .wrF64BE 7 9)],
    decode ⟨p.1, 7, 9⟩ = .ok p.2 := by decide

/-- Format L: `OPC`, then the `ARG` fields of each row (R95). -/
theorem test_decode_link : ∀ p ∈ [
    (0b01000000000000000000010111000000#32, Instr.lhSet 5 0xC0 7 0),
    (0b01000001000000000000000000000000#32, .lhGet),
    (0b01000010000000000000000000000000#32, .lhRead 7),
    (0b01000011000000000000000000000000#32, .lhWrite 7),
    (0b01000100000000000000010001000000#32, .lhCtrl true false false 0x40),
    (0b01000100000000000000001000001011#32, .lhCtrl false true false 0x0B),
    (0b01000100000000000000000100001011#32, .lhCtrl false false true 0x0B),
    (0b01000101000000000000000000000001#32, .lhChfcb true),
    (0b01000110000000000000000000000000#32, .lhFunc),
    (0b01000111000000000000000000000000#32, .crcCalc 7 9)],
    decode ⟨p.1, 7, 9⟩ = .ok p.2 := by decide

/-- Format T: `OPC`, then 24 zeros (R96). -/
theorem test_decode_transport : ∀ p ∈ [
    (0b01010000000000000000000000000000#32, Instr.tlUp),
    (0b01010001000000000000000000000000#32, .tlDown),
    (0b01010010000000000000000000000000#32, .tlSend 7 9),
    (0b01010011000000000000000000000000#32, .tlRecv 7 9),
    (0b01010100000000000000000000000000#32, .tlSucc),
    (0b01010101000000000000000000000000#32, .tlFail)],
    decode ⟨p.1, 7, 9⟩ = .ok p.2 := by decide

/-- Formats O and S (R97). -/
theorem test_decode_objects_system : ∀ p ∈ [
    (0b01100000000000000000000100000010#32, Instr.ohParse .fixed 0x0102 7),
    (0b01100000000000010000000000000001#32, .ohParse .bitfield 1 7),
    (0b01100001000000000000000000000001#32, .oiInit true 7),
    (0b01100001000000000000000000000000#32, .oiInit false 7),
    (0b01100010000000000000000000000000#32, .oiHasdata),
    (0b01100011000000000000000000000000#32, .oiDeref),
    (0b01100100000000000000000000000000#32, .oiInfo),
    (0b01100101000000000000000000000000#32, .oiInc),
    (0b01100110000000000000000000000000#32, .oiPinc),
    (0b01100111000000000000000000000000#32, .oiCount),
    (0b01101000000000000000000000000000#32, .oiIsend),
    (0b01101001000000000000000000000000#32, .oiSwap),
    (0b01110000000000000000000000000000#32, .sysStat),
    (0b01110001000000000000000000000000#32, .sysReset),
    (0b01110010000000000000000000000000#32, .sysFinfo)],
    decode ⟨p.1, 7, 9⟩ = .ok p.2 := by decide

/-- `OPA` of `LH.SET` is `src` above `dest` (R95; the example of 41_link_header.md R204). -/
theorem test_decode_lhSet_opa : decode ⟨0x400005C0, 0x04000001, 0⟩ = .ok (.lhSet 5 0xC0 1 1024) := by decide

/-- The frame of an opcode-table word: `CW`, then `OPA`, then `OPB`, counted from bit 0 (log 9). -/
theorem test_table_word : decodeTableWord 32 0x70000000 = some .sysStat ∧
    decodeTableWord 128 0x00000000000000090000000752000000 = some (.tlSend 7 9) ∧
    decodeTableWord 32 0x07000000 = none := by decide

/-- The very next step runs the presented word. -/
theorem test_fetch_word : step (State.reset.withFetchWord 32 0x50000000) =
    .next { State.reset with tls := .ready, rsp := some ⟨0x00, 0x101, [.upperLayerUp]⟩ } := rfl

/-! ## The byte codec: the worked example of each instruction's rule (40_byte_codec.md R160 to R199) -/

theorem test_rdU8 : (after (.rdU8 8) (small 8 [0x80])).rsp =
    some ⟨0x00, 0x0000000000000080, []⟩ := by decide

theorem test_rdI8 : (after (.rdI8 8) (small 8 [0x80])).rsp =
    some ⟨0x00, 0xFFFFFFFFFFFFFF80, []⟩ := by decide

theorem test_rdU16LE : (after (.rdU16LE 8) (small 8 [0x80, 0xFE])).rsp =
    some ⟨0x00, 0x000000000000FE80, []⟩ := by decide

theorem test_rdU16BE : (after (.rdU16BE 8) (small 8 [0x80, 0xFE])).rsp =
    some ⟨0x00, 0x00000000000080FE, []⟩ := by decide

theorem test_rdI16LE : (after (.rdI16LE 8) (small 8 [0x80, 0xFE])).rsp =
    some ⟨0x00, 0xFFFFFFFFFFFFFE80, []⟩ := by decide

theorem test_rdI16BE : (after (.rdI16BE 8) (small 8 [0x80, 0xFE])).rsp =
    some ⟨0x00, 0xFFFFFFFFFFFF80FE, []⟩ := by decide

theorem test_rdU32LE : (after (.rdU32LE 8) (small 8 [0x80, 0x11, 0x22, 0xFE])).rsp =
    some ⟨0x00, 0x00000000FE221180, []⟩ := by decide

theorem test_rdU32BE : (after (.rdU32BE 8) (small 8 [0x80, 0x11, 0x22, 0xFE])).rsp =
    some ⟨0x00, 0x00000000801122FE, []⟩ := by decide

theorem test_rdI32LE : (after (.rdI32LE 8) (small 8 [0x80, 0x11, 0x22, 0xFE])).rsp =
    some ⟨0x00, 0xFFFFFFFFFE221180, []⟩ := by decide

theorem test_rdI32BE : (after (.rdI32BE 8) (small 8 [0x80, 0x11, 0x22, 0xFE])).rsp =
    some ⟨0x00, 0xFFFFFFFF801122FE, []⟩ := by decide

theorem test_rdU48LE : (after (.rdU48LE 8) (small 8 [0x80, 0x11, 0x22, 0x33, 0x44, 0xFE])).rsp =
    some ⟨0x00, 0x0000FE4433221180, []⟩ := by decide

theorem test_rdU48BE : (after (.rdU48BE 8) (small 8 [0x80, 0x11, 0x22, 0x33, 0x44, 0xFE])).rsp =
    some ⟨0x00, 0x00008011223344FE, []⟩ := by decide

theorem test_rdU64LE : (after (.rdU64LE 8) (small 8 [0x80, 0x11, 0x22, 0x33, 0x44, 0x55, 0x66, 0xFE])).rsp =
    some ⟨0x00, 0xFE66554433221180, []⟩ := by decide

theorem test_rdU64BE : (after (.rdU64BE 8) (small 8 [0x80, 0x11, 0x22, 0x33, 0x44, 0x55, 0x66, 0xFE])).rsp =
    some ⟨0x00, 0x80112233445566FE, []⟩ := by decide

theorem test_rdI64LE : (after (.rdI64LE 8) (small 8 [0x80, 0x11, 0x22, 0x33, 0x44, 0x55, 0x66, 0xFE])).rsp =
    some ⟨0x00, 0xFE66554433221180, []⟩ := by decide

theorem test_rdI64BE : (after (.rdI64BE 8) (small 8 [0x80, 0x11, 0x22, 0x33, 0x44, 0x55, 0x66, 0xFE])).rsp =
    some ⟨0x00, 0x80112233445566FE, []⟩ := by decide

theorem test_rdF32LE : (after (.rdF32LE 8) (small 8 [0x00, 0x00, 0x20, 0xC0])).rsp =
    some ⟨0x00, 0x00000000C0200000, []⟩ := by decide

theorem test_rdF32BE : (after (.rdF32BE 8) (small 8 [0xC0, 0x20, 0x00, 0x00])).rsp =
    some ⟨0x00, 0x00000000C0200000, []⟩ := by decide

theorem test_rdF64LE : (after (.rdF64LE 8) (small 8 [0x00, 0x00, 0x00, 0x00, 0x00, 0x00, 0xF0, 0x3F])).rsp =
    some ⟨0x00, 0x3FF0000000000000, []⟩ := by decide

theorem test_rdF64BE : (after (.rdF64BE 8) (small 8 [0x3F, 0xF0, 0x00, 0x00, 0x00, 0x00, 0x00, 0x00])).rsp =
    some ⟨0x00, 0x3FF0000000000000, []⟩ := by decide

theorem test_wrU8 : (after (.wrU8 8 0x00000000000001FF) (small 0 [])).buf.readBytes 7 3 =
    [0x00, 0xFF, 0x00] := by decide

theorem test_wrI8 : (after (.wrI8 8 0xFFFFFFFFFFFFFFFE) (small 0 [])).buf.readBytes 7 3 =
    [0x00, 0xFE, 0x00] := by decide

theorem test_wrU16LE : (after (.wrU16LE 8 0x000000000001BEEF) (small 0 [])).buf.readBytes 7 4 =
    [0x00, 0xEF, 0xBE, 0x00] := by decide

theorem test_wrU16BE : (after (.wrU16BE 8 0x000000000001BEEF) (small 0 [])).buf.readBytes 7 4 =
    [0x00, 0xBE, 0xEF, 0x00] := by decide

theorem test_wrI16LE : (after (.wrI16LE 8 0xFFFFFFFFFFFFFFFE) (small 0 [])).buf.readBytes 7 4 =
    [0x00, 0xFE, 0xFF, 0x00] := by decide

theorem test_wrI16BE : (after (.wrI16BE 8 0xFFFFFFFFFFFFFFFE) (small 0 [])).buf.readBytes 7 4 =
    [0x00, 0xFF, 0xFE, 0x00] := by decide

theorem test_wrU32LE : (after (.wrU32LE 8 0x00000001DEADBEEF) (small 0 [])).buf.readBytes 7 6 =
    [0x00, 0xEF, 0xBE, 0xAD, 0xDE, 0x00] := by decide

theorem test_wrU32BE : (after (.wrU32BE 8 0x00000001DEADBEEF) (small 0 [])).buf.readBytes 7 6 =
    [0x00, 0xDE, 0xAD, 0xBE, 0xEF, 0x00] := by decide

theorem test_wrI32LE : (after (.wrI32LE 8 0xFFFFFFFFFFFFFFFE) (small 0 [])).buf.readBytes 7 6 =
    [0x00, 0xFE, 0xFF, 0xFF, 0xFF, 0x00] := by decide

theorem test_wrI32BE : (after (.wrI32BE 8 0xFFFFFFFFFFFFFFFE) (small 0 [])).buf.readBytes 7 6 =
    [0x00, 0xFF, 0xFF, 0xFF, 0xFE, 0x00] := by decide

theorem test_wrU48LE : (after (.wrU48LE 8 0x0000123456789ABC) (small 0 [])).buf.readBytes 7 8 =
    [0x00, 0xBC, 0x9A, 0x78, 0x56, 0x34, 0x12, 0x00] := by decide

theorem test_wrU48BE : (after (.wrU48BE 8 0x0000123456789ABC) (small 0 [])).buf.readBytes 7 8 =
    [0x00, 0x12, 0x34, 0x56, 0x78, 0x9A, 0xBC, 0x00] := by decide

theorem test_wrU64LE : (after (.wrU64LE 8 0x0123456789ABCDEF) (small 0 [])).buf.readBytes 7 10 =
    [0x00, 0xEF, 0xCD, 0xAB, 0x89, 0x67, 0x45, 0x23, 0x01, 0x00] := by decide

theorem test_wrU64BE : (after (.wrU64BE 8 0x0123456789ABCDEF) (small 0 [])).buf.readBytes 7 10 =
    [0x00, 0x01, 0x23, 0x45, 0x67, 0x89, 0xAB, 0xCD, 0xEF, 0x00] := by decide

theorem test_wrI64LE : (after (.wrI64LE 8 0x8000000000000001) (small 0 [])).buf.readBytes 7 10 =
    [0x00, 0x01, 0x00, 0x00, 0x00, 0x00, 0x00, 0x00, 0x80, 0x00] := by decide

theorem test_wrI64BE : (after (.wrI64BE 8 0x8000000000000001) (small 0 [])).buf.readBytes 7 10 =
    [0x00, 0x80, 0x00, 0x00, 0x00, 0x00, 0x00, 0x00, 0x01, 0x00] := by decide

theorem test_wrF32LE : (after (.wrF32LE 8 0x00000000C0200000) (small 0 [])).buf.readBytes 7 6 =
    [0x00, 0x00, 0x00, 0x20, 0xC0, 0x00] := by decide

theorem test_wrF32BE : (after (.wrF32BE 8 0x00000000C0200000) (small 0 [])).buf.readBytes 7 6 =
    [0x00, 0xC0, 0x20, 0x00, 0x00, 0x00] := by decide

theorem test_wrF64LE : (after (.wrF64LE 8 0x3FF0000000000000) (small 0 [])).buf.readBytes 7 10 =
    [0x00, 0x00, 0x00, 0x00, 0x00, 0x00, 0x00, 0xF0, 0x3F, 0x00] := by decide

theorem test_wrF64BE : (after (.wrF64BE 8 0x3FF0000000000000) (small 0 [])).buf.readBytes 7 10 =
    [0x00, 0x3F, 0xF0, 0x00, 0x00, 0x00, 0x00, 0x00, 0x00, 0x00] := by decide
/-- The 48-bit clamp at its first value (R153, R190). -/
theorem test_wrU48LE_clamps : (after (.wrU48LE 8 0x0001000000000000) (small 0 [])).buf.readBytes 7 8 =
    [0x00, 0xFF, 0xFF, 0xFF, 0xFF, 0xFF, 0xFF, 0x00] := by decide

/-! ## The link header unit: the worked examples of 41_link_header.md R204 to R211 -/

/-- The header of the examples: `LEN` 5, `CTRL` 0xC0, `DEST` 1, `SRC` 1024. -/
def withHeader (ctrl : Byte) : State := { small 0 [] with lh := ⟨5, ctrl, 1, 1024⟩ }

theorem test_lhSet : after (.lhSet 5 0xC0 1 1024) (small 0 []) =
    { withHeader 0xC0 with rsp := some ⟨0x00, 0x000104000001C005, []⟩ } := by decide

theorem test_lhGet : (after .lhGet (withHeader 0xC0)).rsp = some ⟨0x00, 0x000104000001C005, []⟩ := by decide

/-- After reset `VALID` is 0 (R205). -/
theorem test_lhGet_reset : (after .lhGet (small 0 [])).result = some 0 := by decide

theorem test_lhRead : (after (.lhRead 0) (small 0 [0x05, 0x64, 0x05, 0xC0, 0x01, 0x00, 0x00, 0x04, 0xE9, 0x21])).lh =
    ⟨5, 0xC0, 1, 1024⟩ := by decide

/-- Start bytes and CRC have no effect (R206). -/
theorem test_lhRead_unchecked : (after (.lhRead 0) (small 2 [0x05, 0xC0, 0x01, 0x00, 0x00, 0x04])).rsp =
    some ⟨0x00, 0x000104000001C005, []⟩ := by decide

theorem test_lhWrite : (after (.lhWrite 0) (withHeader 0xC0)).buf.readBytes 0 11 =
    [0x05, 0x64, 0x05, 0xC0, 0x01, 0x00, 0x00, 0x04, 0xE9, 0x21, 0x00] := by decide +kernel

theorem test_lhCtrl : (after (.lhCtrl true false false 0x40) (small 0 [])).result = some 0xC0 ∧
    (after (.lhCtrl true true true 0x43) (small 0 [])).result = some 0xF3 ∧
    (after (.lhCtrl false false true 0x0B) (small 0 [])).result = some 0x1B := by decide

theorem test_lhChfcb : (after (.lhChfcb true) (withHeader 0xD3)).lh.ctrl = 0xF3 ∧
    (after (.lhChfcb false) (withHeader 0xF3)).lh.ctrl = 0xD3 := by decide

theorem test_lhFunc : (after .lhFunc (withHeader 0xF3)).result = some 0x43 ∧
    (after .lhFunc (withHeader 0x80)).result = some 0x00 := by decide

theorem test_crcCalc : (after (.crcCalc 0 9) (small 0 [0x31, 0x32, 0x33, 0x34, 0x35, 0x36, 0x37, 0x38, 0x39])).rsp =
    some ⟨0x00, 0xEA82, []⟩ := by decide +kernel

/-! ## The transport unit: the worked examples of 42_transport.md R236 to R249 -/

/-- The state of the examples: Ready, `SEG_PAYLOAD` 4, ten bytes A0 to A9 in `BUF`. -/
def ready : State :=
  { small 0 [0xA0, 0xA1, 0xA2, 0xA3, 0xA4, 0xA5, 0xA6, 0xA7, 0xA8, 0xA9] with tls := .ready }

/-- The example's send of ten bytes, its first segment outstanding. -/
def sending : State := after (.tlSend 0 10) ready

theorem test_tlUp : (after .tlUp (small 0 [])).rsp = some ⟨0x00, 0x101, [.upperLayerUp]⟩ ∧
    (after .tlUp (after .tlUp (small 0 []))).rsp = some ⟨0x00, 0x001, []⟩ := by decide

theorem test_tlDown : after .tlDown { sending with rx := ⟨[], 2, 0, true⟩ } =
    { sending with tls := .closed, rx := ⟨[], 0, 0, false⟩, rsp := some ⟨0x00, 0x100, [.upperLayerDown]⟩ } := by decide

theorem test_tlSend : sending = { ready with
    tls := .sending
    tx := ⟨0, 10, 0, 0⟩
    rsp := some ⟨0x00, 0x102, [.lowerSend [0x40, 0xA0, 0xA1, 0xA2, 0xA3]]⟩ } := by decide

theorem test_tlSucc_next : after .tlSucc sending = { sending with
    tx := ⟨0, 10, 4, 1⟩
    rsp := some ⟨0x00, 0x102, [.lowerSend [0x01, 0xA4, 0xA5, 0xA6, 0xA7]]⟩ } := by decide

theorem test_tlSucc_last : afterAll [.tlSucc, .tlSucc, .tlSucc] sending = { sending with
    tls := .ready
    tx := ⟨0, 10, 10, 3⟩
    rsp := some ⟨0x00, 0x101, [.upperSendSuccess]⟩ } := by decide

theorem test_tlFail : after .tlFail (after .tlSucc sending) = { sending with
    tls := .ready
    tx := ⟨0, 10, 4, 1⟩
    rsp := some ⟨0x00, 0x101, [.upperSendFailure]⟩ } := by decide

/-- A first segment (R240). -/
theorem test_tlRecv_first : after (.tlRecv 0 3) { small 0 [0x40, 0x11, 0x22] with tls := .ready } =
    { small 0 [0x40, 0x11, 0x22] with
      tls := .ready
      rx := ⟨[(0, 0x11), (1, 0x22)], 2, 0, true⟩
      rsp := some ⟨0x00, 0x101, []⟩ } := by decide

/-- The last segment of the same APDU. -/
theorem test_tlRecv_last : (after (.tlRecv 0 2)
    { small 0 [0x81, 0x33] with tls := .ready, rx := ⟨[(0, 0x11), (1, 0x22)], 2, 0, true⟩ }).rsp =
    some ⟨0x00, 0x101, [.upperReceive [0x11, 0x22, 0x33]]⟩ := by decide

/-! ## The object unit: the worked examples of 43_object_iterator.md R284 to R293 -/

/-- The header of the example: group 1, variation 2, qualifier 0x00, 5 to 7. -/
def rangedHeader : HeaderInfo := ⟨1, 2, 0x00, .ranged, .fixed, 1, .none, 3, 5, 5⟩

/-- `BUF` of the example, with the header parsed. -/
def parsed : State := after (.ohParse .fixed 1 0) (small 0 [0x01, 0x02, 0x00, 0x05, 0x07])

/-- The example's iterator at its first object. -/
def started : State := after (.oiInit true 5) parsed

theorem test_ohParse : parsed = { small 0 [0x01, 0x02, 0x00, 0x05, 0x07] with
    hi := rangedHeader, rsp := some ⟨0x00, 0x0000000505000201, []⟩ } := by decide

theorem test_oiInit : started = { parsed with
    it := ⟨rangedHeader, 0, true, 5, 5, 5, 5⟩, rsp := some ⟨0x00, 3, []⟩ } := by decide

theorem test_oiHasdata : (after .oiHasdata started).result = some 1 := by decide

theorem test_oiDeref : (after .oiDeref started).result = some 5 := by decide

theorem test_oiInfo : (after .oiInfo started).result = some 0x0000000500000005 := by decide

theorem test_oiInc : after .oiInc started = { started with
    it := ⟨rangedHeader, 1, true, 6, 6, 6, 5⟩, rsp := some ⟨0x00, 0, []⟩ } := by decide

theorem test_oiInc_end : (afterAll [.oiInc, .oiInc, .oiInc] started).it = ⟨rangedHeader, 3, true, 7, 7, 7, 5⟩ ∧
    (afterAll [.oiInc, .oiInc, .oiInc] started).result = some 1 ∧
    (afterAll [.oiInc, .oiInc, .oiInc, .oiInc] started).fsr = ⟨0x03, 0x65, 3⟩ := by decide

theorem test_oiPinc : after .oiPinc started = { started with
    it := ⟨rangedHeader, 1, true, 6, 6, 6, 5⟩, its := started.it, rsp := some ⟨0x00, 0, []⟩ } := by decide

theorem test_oiCount : (after .oiCount started).result = some 3 := by decide

theorem test_oiIsend : (after .oiIsend started).result = some 0 ∧
    (afterAll [.oiInc, .oiInc, .oiInc, .oiIsend] started).result = some 1 := by decide

theorem test_oiSwap : (afterAll [.oiPinc, .oiSwap, .oiInfo] started).result = some 0x0000000500000005 ∧
    (afterAll [.oiPinc, .oiSwap, .oiSwap, .oiInfo] started).result = some 0x0000000500000006 := by decide

/-! ## The system unit: the worked examples of 44_system.md R332 to R334 -/

/-- A halted state: `RD.U16LE` at `BUF_SIZE - 1`. -/
def halted : State := after (.rdU16LE 31) (small 0 [])

theorem test_sysStat : (afterAll [.tlSucc, .tlSucc, .tlSucc, .sysStat] sending).result = some 0x0000000003000001 := by decide

theorem test_sysFinfo : (after .sysFinfo halted).rsp = some ⟨0x00, 31, []⟩ := by decide

theorem test_sysReset : (after .sysReset halted).rsp = some ⟨0x00, 0, []⟩ ∧
    (afterAll [.sysReset, .sysStat] halted).result = some 0 := by decide

/-! ## Hypotheses that can be met: a concrete state and operands for each statement that has any, one for each of its
clauses, at the ends of their ranges. `sending`, `started` and the others above are results of the examples. -/

/-- A host action list with a command in front. -/
def pending (f : Frame) : State := { small 0 [] with inp := [.command f] }

theorem witness_table : (∃ r ∈ opcodeTable, 0x70000000#32 &&& r.mask = r.pattern) ∧
    decode ⟨0x70000000, 1, 2⟩ = .ok .sysStat := by decide

theorem witness_stepRuns : (pending ⟨0x50000000, 0, 0⟩).inp = .command ⟨0x50000000, 0, 0⟩ :: [] ∧
    decode ⟨0x50000000, 0, 0⟩ = .ok .tlUp := by decide

theorem witness_illegal : (pending ⟨0x07000000, 0, 0⟩).inp = .command ⟨0x07000000, 0, 0⟩ :: [] ∧
    (∀ r ∈ opcodeTable, 0x07000000#32 &&& r.mask ≠ r.pattern) ∧ (pending ⟨0x07000000, 0, 0⟩).halt = false := by decide

/-- The last store inside `BUF` and the first outside. -/
theorem witness_hostStore : ({ small 0 [] with inp := [.store 30 [1, 2]] } : State).inp = .store 30 [1, 2] :: [] ∧
    30 + [1, 2].length ≤ (small 0 []).cfg.bufSize ∧ (small 0 []).cfg.bufSize < 31 + [1, 2].length ∧
    (small 0 []).inp = [] := by decide

/-- The response of a step is gone with the next one, be it idle or a store (10_state.md R20, R35). -/
theorem test_responseIsNotKept :
    step { halted with inp := [] } = .next { halted with inp := [], rsp := none } ∧
    step { halted with inp := [.store 30 [0, 0]] } = .next { halted with inp := [], rsp := none } := ⟨rfl, rfl⟩

/-- The last store inside `BUF`, for the clause on stores. -/
theorem witness_ports : 30 + ([1, 2] : List Byte).length ≤ (⟨32, 16, 4⟩ : Config).bufSize := by decide

theorem witness_halted : halted.halt = true ∧ (∀ i, decode ⟨0x07000000, 0, 0⟩ = .ok i → ¬isSystem i) ∧
    ¬isSystem .tlUp := by
  refine ⟨by decide, ?_, by unfold isSystem; decide⟩
  have h : decode ⟨0x07000000, 0, 0⟩ = .error .unassignedOpcode := by decide
  intro i hi
  rw [h] at hi
  cases hi

/-- A taken latch, an untaken one that a raise takes, and a `HALT` that a raise sets. -/
theorem witness_firstError : exec .tlUp halted = .next (after .tlUp halted) ∧ halted.fsr.fcode ≠ 0x00 ∧
    (after .tlUp ready).status = some 0x00 ∧ exec (.rdU16LE 31) (small 0 []) = .next halted ∧
    halted.fsr ≠ (small 0 []).fsr ∧ halted.halt ≠ (small 0 []).halt :=
  ⟨rfl, by decide, by decide, rfl, by decide, by decide⟩

/-- Each register and `BUF` is changed by one of the instructions its clause names. -/
theorem witness_registers :
    (after (.lhSet 5 0xC0 1 1024) ready).lh ≠ ready.lh ∧ (after (.lhChfcb true) ready).lh ≠ ready.lh ∧
    (after .tlUp (small 0 [])).tls ≠ (small 0 []).tls ∧ (after (.tlSend 0 10) ready).tx ≠ ready.tx ∧
    (after .tlSucc sending).tx.seq ≠ sending.tx.seq ∧
    (after (.tlRecv 0 3) { small 0 [0x40, 0x11, 0x22] with tls := .ready }).rx ≠ (small 0 []).rx ∧
    (after (.ohParse .fixed 1 0) (small 0 [0x01, 0x02, 0x00, 0x05, 0x07])).hi ≠ (small 0 []).hi ∧
    (after .oiInc started).it ≠ started.it ∧ (after .oiPinc started).its ≠ started.its ∧
    (after (.wrU8 0 1) ready).buf ≠ ready.buf := by decide

theorem witness_events : (after .tlUp (small 0 [])).events ≠ [] ∧ halted.status ≠ some 0x00 := by decide

theorem witness_running : ready.halt = false ∧ ready.TransmitterLegal ∧ sending.TransmitterLegal :=
  ⟨by decide, ⟨by decide, by decide, by decide⟩, ⟨by decide, by decide, by decide⟩⟩

/-- For each width of the codec, the last address inside `BUF` and the first outside. -/
theorem witness_codec : (small 0 []).halt = false ∧ ∀ w ∈ [1, 2, 4, 6, 8],
    (BitVec.ofNat 32 (32 - w)).toNat + w ≤ (small 0 []).cfg.bufSize ∧
    (small 0 []).cfg.bufSize < (BitVec.ofNat 32 (33 - w)).toNat + w := by decide

/-- In range and out of range for an unsigned, a signed and a 48-bit type, at the ends. -/
theorem witness_roundTrips :
    (plainType .rdU16LE .wrU16LE 2).inRange 0xFFFF ∧ ¬(plainType .rdU16LE .wrU16LE 2).inRange 0x10000 ∧
    (signedType .rdI8 .wrI8 1).inRange 0xFFFFFFFFFFFFFF80 ∧ ¬(signedType .rdI8 .wrI8 1).inRange 0x80 ∧
    (clampedType .rdU48LE .wrU48LE).inRange 0xFFFFFFFFFFFF ∧
    ¬(clampedType .rdU48LE .wrU48LE).inRange 0x1000000000000 := by
  unfold plainType signedType clampedType
  decide

/-- Two states that differ outside what the codec sees. -/
theorem witness_codecStateless : isRead (.rdU8 0) ∧ isWrite (.wrU8 0 1) ∧ ready ≠ { ready with tls := .closed } ∧
    ready.buf = { ready with tls := .closed }.buf ∧ ready.halt = { ready with tls := .closed }.halt ∧
    ready.cfg = { ready with tls := .closed }.cfg := by
  unfold isRead isWrite
  decide

/-- The last header inside `BUF` and the first outside. -/
theorem witness_header : (withHeader 0xC0).halt = false ∧
    (22 : Word).toNat + 10 ≤ (withHeader 0xC0).cfg.bufSize ∧
    (withHeader 0xC0).cfg.bufSize < (23 : Word).toNat + 10 := by decide

/-- No bytes past the end of `BUF`, the last eight bytes, and one too many. -/
theorem witness_crc : (0 : DWord) = 0 ∧ (24 : Word).toNat + (8 : DWord).toNat ≤ (small 0 []).cfg.bufSize ∧
    (9 : DWord) ≠ 0 ∧ (small 0 []).cfg.bufSize < (24 : Word).toNat + (9 : DWord).toNat := by decide

/-- The three states of the transport unit, not halted. -/
theorem witness_transportStates : (small 0 []).tls = .closed ∧ (small 0 []).halt = false ∧ ready.tls = .ready ∧
    ready.halt = false ∧ sending.tls = .sending ∧ sending.halt = false ∧ isTransport .tlUp ∧
    (after .tlUp ready).status = some 0x00 := by
  unfold isTransport
  decide

/-- The lengths 0, 1, `FRAG_SIZE` and one more; the last APDU inside `BUF` and the first outside. -/
theorem witness_send : 1 ≤ (1 : DWord).toNat ∧ (16 : DWord).toNat ≤ ready.cfg.fragSize ∧
    ready.cfg.fragSize < (17 : DWord).toNat ∧ (16 : Word).toNat + (16 : DWord).toNat ≤ ready.cfg.bufSize ∧
    ready.cfg.bufSize < (17 : Word).toNat + (16 : DWord).toNat := by decide

/-- A completion with bytes left and the last one. -/
theorem witness_success : (1 : Seq).toNat = (sending.tx.seq.toNat + 1) % 64 ∧
    sending.tx.sent + min sending.cfg.segPayload (sending.tx.len - sending.tx.sent) < sending.tx.len ∧
    sending.tx.base.toNat + sending.tx.len ≤ sending.cfg.bufSize ∧
    (afterAll [.tlSucc, .tlSucc] sending).tx.len ≤ (afterAll [.tlSucc, .tlSucc] sending).tx.sent +
      min 4 ((afterAll [.tlSucc, .tlSucc] sending).tx.len - (afterAll [.tlSucc, .tlSucc] sending).tx.sent) := by decide

theorem witness_reaction : (afterAll [.tlSucc, .tlSucc, .tlSucc] sending).events = [.upperSendSuccess] ∧
    (after .tlFail sending).events = [.upperSendFailure] ∧ 1 ≤ (10 : DWord).toNat ∧
    (10 : DWord).toNat ≤ sending.cfg.fragSize ∧ (0 : Word).toNat + (10 : DWord).toNat ≤ sending.cfg.bufSize := by decide

/-- The lengths 1, 2 and `BUF_SIZE` and one more; a header byte with FIR, one without; a sequence number that follows
`RX_SEQ` and one that does not; a payload that just fits `RX_BUF` after two bytes, and one too long. -/
theorem witness_receive : (1 : DWord).toNat < 2 ∧ 2 ≤ (2 : DWord).toNat ∧
    (0 : Word).toNat + (32 : DWord).toNat ≤ ready.cfg.bufSize ∧ ready.cfg.bufSize < (0 : Word).toNat + (33 : DWord).toNat ∧
    (0x40 : Byte).getLsbD 6 = true ∧ (0x81 : Byte).getLsbD 6 = false ∧ (0x81 : Byte).getLsbD 7 = true ∧
    (1 : Seq).toNat = (0x81 : Byte).toNat % 64 ∧ (1 : Seq).toNat = ((0 : Seq).toNat + 1) % 64 ∧
    (1 : Seq).toNat ≠ ((1 : Seq).toNat + 1) % 64 ∧ 2 + 14 ≤ ready.cfg.fragSize ∧ ready.cfg.fragSize < 2 + 15 := by decide

/-- Ten bytes in segments of four, as in the example: three segments. -/
theorem witness_segmentation : ready.halt = false ∧ ready.tls = .ready ∧ 1 ≤ ready.cfg.segPayload ∧
    1 ≤ (10 : DWord).toNat ∧ (10 : DWord).toNat ≤ ready.cfg.fragSize ∧
    (22 : Word).toNat + (10 : DWord).toNat ≤ ready.cfg.bufSize ∧ (10 + 4 - 1) / 4 = 3 := by decide

/-- Three segments, so that there is a middle one to leave out. -/
theorem witness_reassembly : ready.halt = false ∧ ready.tls ≠ .closed ∧ ready.rx.active = false ∧
    (27 : Word).toNat + 4 + 1 ≤ ready.cfg.bufSize ∧ (ready.buf.readBytes 0 10).length ≤ ready.cfg.fragSize ∧
    1 ≤ (ready.buf.readBytes 0 10).length ∧ 1 + 1 < (apduSegments 4 0 (ready.buf.readBytes 0 10)).length := by decide

theorem witness_endOfSend : sending.tls = .sending ∧
    exec .tlFail sending = .next (after .tlFail sending) ∧ (after .tlFail sending).tls ≠ .sending :=
  ⟨by decide, rfl, by decide⟩

/-- For every row of the qualifier table, the last place of its header inside `BUF` and the first outside; a qualifier
of no row; a stop below its start. -/
theorem witness_parse : (∀ e ∈ qualifierTable, ∃ a : Word,
      a.toNat + e.hdrlen ≤ (small 0 []).cfg.bufSize ∧ (small 0 []).cfg.bufSize < a.toNat + 1 + e.hdrlen ∧
      a.toNat + 3 ≤ (small 0 []).cfg.bufSize ∧ e.qual = (small (a.toNat + 2) [e.qual]).buf.read (a.toNat + 2)) ∧
    (∀ e ∈ qualifierTable, e.qual ≠ (small 2 [0x03]).buf.read 2) ∧
    (small 0 []).cfg.bufSize < (30 : Word).toNat + 3 ∧
    littleEndian (small 3 [7, 6]).buf 4 1 < littleEndian (small 3 [7, 6]).buf 3 1 := by
  refine ⟨?_, by decide, by decide, by decide⟩
  have h : ∀ e ∈ qualifierTable, (BitVec.ofNat 32 (32 - e.hdrlen)).toNat + e.hdrlen ≤ (small 0 []).cfg.bufSize ∧
      (small 0 []).cfg.bufSize < (BitVec.ofNat 32 (32 - e.hdrlen)).toNat + 1 + e.hdrlen ∧
      (BitVec.ofNat 32 (32 - e.hdrlen)).toNat + 3 ≤ (small 0 []).cfg.bufSize ∧
      e.qual = (small ((BitVec.ofNat 32 (32 - e.hdrlen)).toNat + 2) [e.qual]).buf.read
        ((BitVec.ofNat 32 (32 - e.hdrlen)).toNat + 2) := by decide
  exact fun e he => ⟨_, h e he⟩

/-- A header with a one-byte index prefix and two objects of three bytes. -/
def indexHeader : HeaderInfo := ⟨12, 1, 0x17, .countIndex, .fixed, 3, .one, 2, 0, 4⟩

/-- `OI.INIT`: the refused combination, the empty header, no prefix, the last prefix inside `BUF` and the first
outside. -/
theorem witness_init : (indexHeader.pfx ≠ .none ∧ (false = false ∨ indexHeader.otype = .bitfield)) ∧
    HeaderInfo.zero.pfx = .none ∧ HeaderInfo.zero.count = 0 ∧ 0 < indexHeader.count ∧ indexHeader.otype = .fixed ∧
    prefixInside { small 0 [] with hi := indexHeader } indexHeader 31 ∧
    ¬prefixInside { small 0 [] with hi := indexHeader } indexHeader 32 := by
  unfold prefixInside
  decide

/-- An iterator before, at the last object and past the end; with data and without. -/
theorem witness_iterator : started.halt = false ∧ started.it.hasData = true ∧ started.it.n < started.it.h.count ∧
    (afterAll [.oiInc, .oiInc] started).it.n + 1 = (afterAll [.oiInc, .oiInc] started).it.h.count ∧
    (afterAll [.oiInc, .oiInc, .oiInc] started).it.h.count ≤ (afterAll [.oiInc, .oiInc, .oiInc] started).it.n ∧
    (after (.oiInit false 0) parsed).it.hasData = false := by decide

/-- An iterator over `indexHeader` with its first prefix at an address. -/
def indexed (a : Word) : State := after (.oiInit true a) { small 0 [] with hi := indexHeader }

/-- The next prefix is the last byte of `BUF`, and the first byte outside. -/
theorem witness_advance : (indexed 27).it.n + 1 < (indexed 27).it.h.count ∧
    prefixInside (indexed 27) (indexed 27).it.h (nextPrefix (indexed 27).it) ∧
    ¬prefixInside (indexed 28) (indexed 28).it.h (nextPrefix (indexed 28).it) := by
  unfold prefixInside
  decide

/-- The header of the examples is one that some parse gives. -/
theorem indexHeader_legal : indexHeader.legal :=
  .inr ⟨⟨show 2 < 2 ^ 32 by decide, rfl⟩, ⟨.countIndex, 1, .one, 4⟩, by decide, rfl, rfl, rfl⟩

theorem iterZero_legal : Iter.zero.Legal where
  header := .inl rfl
  n_le := by decide
  start_eq := rfl
  pos_eq := by decide
  pfxPos_le := by decide
  noData := fun _ => ⟨rfl, rfl⟩
  bitfield := fun _ => rfl
  ranged_index := by decide
  count_index := by decide

/-- Two objects of four bytes that fill `BUF` to its end; two advances reach the end and a third passes it. -/
theorem witness_cursor : ({ small 0 [] with hi := indexHeader } : State).ObjectsLegal ∧
    (small 0 []).cfg.legal = true ∧ (small 0 []).halt = false ∧ indexHeader.otype = .fixed ∧
    (∀ k < indexHeader.count, (27 : Word).toNat + k * (indexHeader.pfx.bytes + indexHeader.osize.toNat) +
      indexHeader.pfx.bytes ≤ (small 0 []).cfg.bufSize) ∧
    ∀ i ∈ [Instr.oiInc, .oiPinc, .oiInc], i = .oiInc ∨ i = .oiPinc :=
  ⟨⟨indexHeader_legal, iterZero_legal, iterZero_legal⟩, by decide, by decide, by decide, by decide, by decide⟩

theorem witness_forward : ({ small 0 [] with hi := indexHeader } : State).ObjectsLegal ∧
    exec .oiCount { small 0 [] with hi := indexHeader } = .next (after .oiCount { small 0 [] with hi := indexHeader }) ∧
    Instr.oiCount ≠ .oiSwap ∧ Instr.oiCount ≠ .sysReset ∧ ∀ hasdata addr, Instr.oiCount ≠ .oiInit hasdata addr :=
  ⟨⟨indexHeader_legal, iterZero_legal, iterZero_legal⟩, rfl, by decide, by decide, by intros; simp⟩

/-- A small state with a command pending and an answer on the response port. -/
def answered : State := { pending ⟨0x50000000, 0, 0⟩ with rsp := some ⟨0x00, 0x102, [.lowerSend [0x40]]⟩ }

/-- It meets every invariant, and a step from it answers a next state. -/
theorem witness_invariants : answered.Legal ∧
    step answered = .next (after .tlUp { small 0 [] with inp := [] }) :=
  ⟨{ cfg := by decide
     memories := ⟨by decide, by decide, by decide, by decide⟩
     faults := ⟨by decide, by decide, by decide, fun _ h => Option.some.inj h ▸ ⟨by decide, by decide, by decide⟩⟩
     transmitter := ⟨by decide, by decide, by decide⟩
     receiver := ⟨by decide, by decide⟩
     objects := ⟨.inl rfl, iterZero_legal, iterZero_legal⟩ }, rfl⟩

theorem witness_powerOn : (⟨32, 16, 4⟩ : Config).legal = true ∧ Memory.wf [(31, 0x05)] = true ∧
    Memory.below 32 [(31, 0x05)] = true ∧ Memory.wf [(15, 0x06)] = true ∧ Memory.below 16 [(15, 0x06)] = true := by decide

/-- Two states with one valid byte in `RX_BUF` and different bytes after it. -/
theorem witness_spareRx : AgreeButSpareRx { ready with rx := ⟨[(0, 0x11), (1, 0x22)], 1, 0, true⟩ }
    { ready with rx := ⟨[(0, 0x11), (1, 0x33)], 1, 0, true⟩ } :=
  ⟨rfl, by decide⟩

end Sys2Proof.Tests
end

section
/-! PROOFS about the state (10_state.md): the ports decide nothing. Each command is run on one state of the DCB under
one set of parameters, with any pending actions and any earlier answer beside it; what it answers is named before those
two are given, so it cannot depend on them. -/

namespace Sys2Proof.Machine

open Sys2Proof

/-! What the parameters and the DCB's state settle -/

/-- Under the parameters `c` the DCB's state `d` settles what `f` answers: one next state of the DCB and one response,
whatever is pending and whatever was answered before. `wrap` is how `f` hands its state on. -/
def Settles {α : Type} (wrap : State → α) (c : Config) (d : Dcb) (f : State → α) : Prop :=
  ∃ (d' : Dcb) (r : Response), ∀ inp rsp, f ⟨d, ⟨c, inp, rsp⟩⟩ = wrap ⟨d', ⟨c, inp, some r⟩⟩

/-- The same of a pseudocode, which may end in a raise instead: then the raise is settled. -/
def SettlesOrRaises (c : Config) (d : Dcb) (body : State → Except Raise State) : Prop :=
  Settles .ok c d body ∨ ∃ e, ∀ inp rsp, body ⟨d, ⟨c, inp, rsp⟩⟩ = .error e

/-- The DCB with nothing at its ports. What a pseudocode looks up (a segment, a header, an iterator) comes from the
parameters and the DCB's state, so it is the same from here as with anything at the ports. -/
def unported (c : Config) (d : Dcb) : State := ⟨d, ⟨c, [], none⟩⟩

section
variable {c : Config} {d : Dcb}

theorem Settles.wrap {α : Type} {f : State → State} (h : Settles id c d f) (w : State → α) :
    Settles w c d fun s => w (f s) := by
  obtain ⟨d', r, hf⟩ := h
  exact ⟨d', r, fun inp rsp => congrArg w (hf inp rsp)⟩

theorem SettlesOrRaises.of_ok {f : State → State} (h : Settles id c d f) :
    SettlesOrRaises c d fun s => .ok (f s) := .inl (h.wrap Except.ok)

/-- A pseudocode that looks something up, the ports aside, and answers by what it found. -/
theorem SettlesOrRaises.of_lookup {α : Type} {body : State → Except Raise State} (x : Except Raise α)
    (next : α → Dcb) (rsp : α → Response)
    (h : ∀ inp old, body ⟨d, ⟨c, inp, old⟩⟩ = x.map fun a => ⟨next a, ⟨c, inp, some (rsp a)⟩⟩) :
    SettlesOrRaises c d body := by
  cases x with
  | error e => exact .inr ⟨e, h⟩
  | ok a => exact .inl ⟨next a, rsp a, h⟩

theorem Settles.congr {α : Type} {wrap : State → α} {f g : State → α} (hg : Settles wrap c d g)
    (h : ∀ inp rsp, f ⟨d, ⟨c, inp, rsp⟩⟩ = g ⟨d, ⟨c, inp, rsp⟩⟩) : Settles wrap c d f := by
  obtain ⟨d', r, hg⟩ := hg
  exact ⟨d', r, fun inp rsp => (h inp rsp).trans (hg inp rsp)⟩

theorem SettlesOrRaises.congr {body body' : State → Except Raise State} (hb : SettlesOrRaises c d body')
    (h : ∀ inp rsp, body ⟨d, ⟨c, inp, rsp⟩⟩ = body' ⟨d, ⟨c, inp, rsp⟩⟩) : SettlesOrRaises c d body := by
  rcases hb with hb | ⟨e, hb⟩
  · exact .inl (hb.congr h)
  · exact .inr ⟨e, fun inp rsp => (h inp rsp).trans (hb inp rsp)⟩

/-! The frame of a command -/

theorem runCommand_settles (opc : Byte) {body : State → Except Raise State} (h : SettlesOrRaises c d body) :
    Settles .next c d (runCommand opc body) := by
  cases hh : d.halt with
  | true => exact ⟨d, ⟨statusHalted, 0, []⟩, fun _ _ => runCommand_halted hh⟩
  | false =>
    rcases h with ⟨d', r, hb⟩ | ⟨e, hb⟩
    · exact ⟨d', r, fun inp rsp => by rw [runCommand_running hh, hb, State.finish_ok]⟩
    · refine ⟨{ d with fsr := d.fsr.latch opc e, halt := haltAfter d.halt e.err }, ⟨e.err.code, 0, []⟩,
        fun inp rsp => ?_⟩
      rw [runCommand_running hh, hb, State.finish_error]
      rfl

theorem illegalCommand_settles (cw : Word) : Settles .next c d (illegalCommand cw) :=
  runCommand_settles _ (.inr ⟨_, fun _ _ => rfl⟩)

/-! The byte codec and the link header unit -/

theorem codecRead_settles (w : Nat) (o : ByteOrder) (ext : Nat → DWord) (addr : Word) :
    SettlesOrRaises c d (codecRead w o ext addr) := by
  by_cases h : w = 0 ∨ addr.toNat + w ≤ c.bufSize
  · exact .inl ⟨d, ⟨statusOk, ext (o.value (d.buf.readBytes addr.toNat w)), []⟩,
      fun _ _ => codecRead_eq_ok.2 ⟨h, rfl⟩⟩
  · exact .inr ⟨bufRange addr.toNat, fun _ _ =>
      codecRead_eq_error.2 ⟨fun hw => h (.inl hw), Nat.lt_of_not_le fun hr => h (.inr hr), rfl⟩⟩

theorem codecWrite_settles (w : Nat) (o : ByteOrder) (addr : Word) (v : Nat) :
    SettlesOrRaises c d (codecWrite w o addr v) := by
  by_cases h : w = 0 ∨ addr.toNat + w ≤ c.bufSize
  · exact .inl ⟨{ d with buf := d.buf.writeBytes addr.toNat (o.bytes v w) }, ⟨statusOk, 0, []⟩,
      fun _ _ => codecWrite_eq_ok.2 ⟨h, rfl⟩⟩
  · exact .inr ⟨bufRange addr.toNat, fun _ _ =>
      codecWrite_eq_error.2 ⟨fun hw => h (.inl hw), Nat.lt_of_not_le fun hr => h (.inr hr), rfl⟩⟩

theorem linkRead_settles (addr : Word) : SettlesOrRaises c d (linkRead addr) := by
  by_cases h : addr.toNat + 10 ≤ c.bufSize
  · exact .inl ⟨{ d with lh := LinkHeader.parse (d.buf.readBytes addr.toNat 10) },
      ⟨statusOk, (LinkHeader.parse (d.buf.readBytes addr.toNat 10)).pack, []⟩, fun _ _ => linkRead_eq_ok.2 ⟨h, rfl⟩⟩
  · exact .inr ⟨bufRange addr.toNat, fun _ _ => linkRead_eq_error.2 ⟨Nat.lt_of_not_le h, rfl⟩⟩

theorem linkWrite_settles (addr : Word) : SettlesOrRaises c d (linkWrite addr) := by
  by_cases h : addr.toNat + 10 ≤ c.bufSize
  · exact .inl ⟨{ d with buf := d.buf.writeBytes addr.toNat (d.lh.wire ++ leBytes (crc16 d.lh.wire).toNat 2) },
      ⟨statusOk, (crc16 d.lh.wire).setWidth 64, []⟩, fun _ _ => linkWrite_eq.trans (if_pos h)⟩
  · exact .inr ⟨bufRange addr.toNat, fun _ _ => linkWrite_eq.trans (if_neg h)⟩

theorem crcCalc_settles (addr : Word) (len : DWord) : SettlesOrRaises c d (crcCalc addr len) := by
  by_cases h : len.toNat = 0 ∨ addr.toNat + len.toNat ≤ c.bufSize
  · exact .inl ⟨d, ⟨statusOk, (crc16 (d.buf.readBytes addr.toNat len.toNat)).setWidth 64, []⟩,
      fun _ _ => crcCalc_eq.trans (if_pos h)⟩
  · exact .inr ⟨bufRange addr.toNat, fun _ _ => crcCalc_eq.trans (if_neg h)⟩

/-! The transport unit -/

theorem tlIgnored_settles : Settles id c d State.tlIgnored := ⟨d, ⟨statusOk, tlResult d.tls false, []⟩, fun _ _ => rfl⟩

theorem tlHandled_settles : Settles id c d State.tlHandled := ⟨d, ⟨statusOk, tlResult d.tls true, []⟩, fun _ _ => rfl⟩

theorem layerUp_settles : Settles id c d layerUp := by
  by_cases h : d.tls = .closed
  · exact ⟨{ d with tls := .ready }, ⟨statusOk, tlResult .ready true, [.upperLayerUp]⟩, fun _ _ =>
      ((layerUp_cases _).resolve_right fun k => k.1 h).2⟩
  · exact tlIgnored_settles.congr fun _ _ => ((layerUp_cases _).resolve_left fun k => h k.1).2

theorem layerDown_settles : Settles id c d layerDown := by
  by_cases h : d.tls = .closed
  · exact tlIgnored_settles.congr fun _ _ => ((layerDown_cases _).resolve_right fun k => k.1 h).2
  · exact ⟨{ d with rx := d.rx.stop, tls := .closed }, ⟨statusOk, tlResult .closed true, [.upperLayerDown]⟩, fun _ _ =>
      ((layerDown_cases _).resolve_left fun k => h k.1).2⟩

theorem sendFailure_settles : Settles id c d sendFailure := by
  by_cases h : d.tls = .sending
  · exact ⟨{ d with tls := .ready }, ⟨statusOk, tlResult .ready true, [.upperSendFailure]⟩, fun _ _ =>
      ((sendFailure_cases _).resolve_right fun k => k.1 h).2⟩
  · exact tlIgnored_settles.congr fun _ _ => ((sendFailure_cases _).resolve_left fun k => h k.1).2

theorem acceptSend_in {addr : Word} {len : Nat} {s : State} (h : addr.toNat + len ≤ s.cfg.bufSize) :
    acceptSend addr len s = (segment s addr len 0 s.tx.seq).map fun b =>
      { s with tx := { s.tx with base := addr, len := len, sent := 0 }, tls := .sending }.tlEmit (.lowerSend b) := by
  unfold acceptSend
  rw [if_neg (Nat.not_lt.2 h)]
  cases segment s addr len 0 s.tx.seq <;> rfl

theorem acceptSend_settles (addr : Word) (len : Nat) : SettlesOrRaises c d (acceptSend addr len) := by
  by_cases h : addr.toNat + len ≤ c.bufSize
  · exact .of_lookup (segment (unported c d) addr len 0 d.tx.seq)
      (fun _ => { d with tx := { d.tx with base := addr, len := len, sent := 0 }, tls := .sending })
      (fun b => ⟨statusOk, tlResult .sending true, [.lowerSend b]⟩) fun _ _ => acceptSend_in h
  · exact .inr ⟨bufRange addr.toNat, fun _ _ => (acceptSend_eq ..).trans (if_neg h)⟩

theorem send_ready {addr : Word} {len : DWord} {s : State} (hl : ¬(len = 0 ∨ s.cfg.fragSize < len.toNat))
    (ht : s.tls = .ready) : send addr len s = acceptSend addr len.toNat s := by
  rcases send_cases addr len s with ⟨k, -⟩ | ⟨-, k, -⟩ | ⟨-, -, e⟩
  · exact absurd k hl
  · exact absurd ht k
  · exact e

theorem send_ignored {addr : Word} {len : DWord} {s : State} (hl : ¬(len = 0 ∨ s.cfg.fragSize < len.toNat))
    (ht : s.tls ≠ .ready) : send addr len s = .ok s.tlIgnored := by
  rcases send_cases addr len s with ⟨k, -⟩ | ⟨-, -, e⟩ | ⟨-, k, -⟩
  · exact absurd k hl
  · exact e
  · exact absurd k ht

theorem send_settles (addr : Word) (len : DWord) : SettlesOrRaises c d (send addr len) := by
  by_cases hl : len = 0 ∨ c.fragSize < len.toNat
  · exact .inr ⟨⟨.argRange, len⟩, fun _ _ => if_pos hl⟩
  · by_cases ht : d.tls = .ready
    · exact (acceptSend_settles addr len.toNat).congr fun _ _ => send_ready hl ht
    · exact (SettlesOrRaises.of_ok tlIgnored_settles).congr fun _ _ => send_ignored hl ht

/-- A completion with more to send emits the next segment, or raises with it. -/
theorem segmentDone_more {s : State} (h : s.tx.sent + segmentSize s s.tx.len s.tx.sent < s.tx.len) :
    segmentDone s =
      (segment s s.tx.base s.tx.len (s.tx.sent + segmentSize s s.tx.len s.tx.sent) (nextSeq s.tx.seq)).map fun b =>
        { s with tx := s.tx.advanced (segmentSize s s.tx.len s.tx.sent) }.tlEmit (.lowerSend b) := by
  rcases segmentDone_cases s with ⟨-, b, hb, e⟩ | ⟨-, r, hr, e⟩ | ⟨k, -⟩
  · rw [hb, e]; rfl
  · rw [hr, e]; rfl
  · omega

theorem segmentDone_last {s : State} (h : s.tx.len ≤ s.tx.sent + segmentSize s s.tx.len s.tx.sent) :
    segmentDone s =
      .ok ({ s with tx := s.tx.advanced (segmentSize s s.tx.len s.tx.sent), tls := .ready }.tlEmit
        .upperSendSuccess) := by
  rcases segmentDone_cases s with ⟨k, -⟩ | ⟨k, -⟩ | ⟨-, e⟩
  · omega
  · omega
  · exact e

theorem segmentDone_settles : SettlesOrRaises c d segmentDone := by
  let n := segmentSize (unported c d) d.tx.len d.tx.sent
  by_cases h : d.tx.sent + n < d.tx.len
  · exact .of_lookup (segment (unported c d) d.tx.base d.tx.len (d.tx.sent + n) (nextSeq d.tx.seq))
      (fun b => { d with tx := d.tx.advanced n }) (fun b => ⟨statusOk, tlResult d.tls true, [.lowerSend b]⟩)
      fun _ _ => segmentDone_more h
  · exact .inl ⟨{ d with tx := d.tx.advanced n, tls := .ready },
      ⟨statusOk, tlResult .ready true, [.upperSendSuccess]⟩, fun _ _ => segmentDone_last (Nat.le_of_not_lt h)⟩

theorem sendSuccess_settles : SettlesOrRaises c d sendSuccess := by
  by_cases h : d.tls = .sending
  · exact segmentDone_settles.congr fun _ _ => ((sendSuccess_cases _).resolve_right fun k => k.1 h).2
  · exact (SettlesOrRaises.of_ok tlIgnored_settles).congr fun _ _ =>
      ((sendSuccess_cases _).resolve_left fun k => h k.1).2

theorem receiverStop_settles : Settles id c d fun s => { s with rx := s.rx.stop }.tlHandled :=
  ⟨{ d with rx := d.rx.stop }, ⟨statusOk, tlResult d.tls true, []⟩, fun _ _ => rfl⟩

theorem appendSegment_settles (fin : Bool) (seq : Seq) (base : Nat) (p : List Byte) :
    Settles id c d fun s => appendSegment s fin seq base p := by
  by_cases h : c.fragSize < base + p.length
  · exact receiverStop_settles.congr fun _ _ => if_pos h
  · cases fin with
    | false =>
      exact ⟨{ d with rx := ⟨d.rx.buf.writeBytes base p, base + p.length, seq, true⟩ },
        ⟨statusOk, tlResult d.tls true, []⟩, fun _ _ => if_neg h⟩
    | true =>
      exact ⟨{ d with rx := ⟨d.rx.buf.writeBytes base p, 0, seq, false⟩ },
        ⟨statusOk, tlResult d.tls true, [.upperReceive ((d.rx.buf.writeBytes base p).readBytes 0 (base + p.length))]⟩,
        fun _ _ => if_neg h⟩

theorem reassemble_settles (hdr : Byte) (p : List Byte) : Settles id c d (reassemble hdr p) := by
  by_cases h6 : hdr.getLsbD 6
  · exact (appendSegment_settles _ _ 0 p).congr fun _ _ => if_pos h6
  · by_cases ha : d.rx.active = false
    · exact tlHandled_settles.congr fun _ _ => (if_neg h6).trans (if_pos ha)
    · by_cases hq : hdr.extractLsb' 0 6 = nextSeq d.rx.seq
      · exact (appendSegment_settles _ _ d.rx.len p).congr fun _ _ =>
          (if_neg h6).trans ((if_neg ha).trans (if_neg (not_not.2 hq)))
      · exact receiverStop_settles.congr fun _ _ => (if_neg h6).trans ((if_neg ha).trans (if_pos hq))

theorem receive_closed {addr : Word} {len : DWord} {s : State} (ht : s.tls = .closed) :
    receive addr len s = .ok s.tlIgnored := by unfold receive; rw [ht]

theorem receive_short {addr : Word} {len : DWord} {s : State} (ht : s.tls ≠ .closed) (hl : len.toNat < 2) :
    receive addr len s = .ok s.tlHandled := by
  rcases receive_cases addr len s with ⟨k, -⟩ | ⟨-, -, e⟩ | ⟨-, k, -⟩ | ⟨-, k, -⟩
  · exact absurd k ht
  · exact e
  · omega
  · omega

theorem receive_in {addr : Word} {len : DWord} {s : State} (ht : s.tls ≠ .closed) (hl : 2 ≤ len.toNat)
    (hr : addr.toNat + len.toNat ≤ s.cfg.bufSize) :
    receive addr len s =
      .ok (reassemble (s.buf.read addr.toNat) (s.buf.readBytes (addr.toNat + 1) (len.toNat - 1)) s) := by
  rcases receive_cases addr len s with ⟨k, -⟩ | ⟨-, k, -⟩ | ⟨-, -, k, -⟩ | ⟨-, -, -, e⟩
  · exact absurd k ht
  · omega
  · omega
  · exact e

theorem receive_out {addr : Word} {len : DWord} {s : State} (ht : s.tls ≠ .closed) (hl : 2 ≤ len.toNat)
    (hr : s.cfg.bufSize < addr.toNat + len.toNat) : receive addr len s = .error (bufRange addr.toNat) := by
  rcases receive_cases addr len s with ⟨k, -⟩ | ⟨-, k, -⟩ | ⟨-, -, -, e⟩ | ⟨-, -, k, -⟩
  · exact absurd k ht
  · omega
  · exact e
  · omega

theorem receive_settles (addr : Word) (len : DWord) : SettlesOrRaises c d (receive addr len) := by
  by_cases ht : d.tls = .closed
  · exact (SettlesOrRaises.of_ok tlIgnored_settles).congr fun _ _ => receive_closed ht
  · rcases Nat.lt_or_ge len.toNat 2 with hl | hl
    · exact (SettlesOrRaises.of_ok tlHandled_settles).congr fun _ _ => receive_short ht hl
    · rcases Nat.lt_or_ge c.bufSize (addr.toNat + len.toNat) with hr | hr
      · exact .inr ⟨bufRange addr.toNat, fun _ _ => receive_out ht hl hr⟩
      · exact (SettlesOrRaises.of_ok (reassemble_settles (d.buf.read addr.toNat)
          (d.buf.readBytes (addr.toNat + 1) (len.toNat - 1)))).congr fun _ _ => receive_in ht hl hr

/-! The object unit -/

theorem headerParse_eq_map (otype : ObjType) (osize : Half) (addr : Word) (s : State) :
    headerParse otype osize addr s =
      (parseHeader otype osize addr s).map fun h => { s with hi := h }.respond h.pack := by
  unfold headerParse
  cases parseHeader otype osize addr s <;> rfl

theorem headerParse_settles (otype : ObjType) (osize : Half) (addr : Word) :
    SettlesOrRaises c d (headerParse otype osize addr) :=
  .of_lookup (parseHeader otype osize addr (unported c d))
    (fun h => { d with hi := h }) (fun h => ⟨statusOk, h.pack, []⟩) fun _ _ => headerParse_eq_map ..

theorem iterInit_accepted {hasdata : Bool} {addr : Word} {s : State} (h : initRefused s.hi hasdata = false) :
    iterInit hasdata addr s =
      (startIter s s.hi hasdata addr).map fun i => { s with it := i }.respond (BitVec.ofNat 64 s.hi.count) := by
  rcases iterInit_cases hasdata addr s with ⟨k, -⟩ | ⟨-, r, hr, e⟩ | ⟨-, i, hi, e⟩
  · simp [h] at k
  · rw [hr, e]; rfl
  · rw [hi, e]; rfl

theorem iterInit_settles (hasdata : Bool) (addr : Word) : SettlesOrRaises c d (iterInit hasdata addr) := by
  cases h : initRefused d.hi hasdata with
  | true => exact .inr ⟨⟨.argRange, d.hi.qual.setWidth 64⟩, fun _ _ => if_pos h⟩
  | false =>
    exact .of_lookup (startIter (unported c d) d.hi hasdata addr)
      (fun i => { d with it := i }) (fun i => ⟨statusOk, BitVec.ofNat 64 d.hi.count, []⟩)
      fun _ _ => iterInit_accepted h

theorem iterDeref_settles : SettlesOrRaises c d iterDeref := by
  by_cases hd : d.it.hasData = false
  · exact .inr ⟨⟨.iterNoData, BitVec.ofNat 64 d.it.n⟩, fun _ _ => if_pos hd⟩
  · by_cases he : d.it.atEnd
    · exact .inr ⟨pastEnd d.it, fun _ _ => (if_neg hd).trans (if_pos he)⟩
    · exact .inl ⟨d, ⟨statusOk, d.it.pos, []⟩, fun _ _ => (if_neg hd).trans (if_neg he)⟩

theorem iterInfo_settles : SettlesOrRaises c d iterInfo := by
  by_cases he : d.it.atEnd
  · exact .inr ⟨pastEnd d.it, fun _ _ => if_pos he⟩
  · exact .inl ⟨d, ⟨statusOk, d.it.start ++ d.it.index, []⟩, fun _ _ => if_neg he⟩

theorem iterInc_eq_map (s : State) :
    iterInc s = (advance s s.it).map fun i => { s with it := i }.respond (flag64 i.atEnd) := by
  rcases iterInc_cases s with ⟨r, hr, e⟩ | ⟨i, hi, e⟩
  · rw [hr, e]; rfl
  · rw [hi, e]; rfl

theorem iterInc_settles : SettlesOrRaises c d iterInc :=
  .of_lookup (advance (unported c d) d.it)
    (fun i => { d with it := i }) (fun i => ⟨statusOk, flag64 i.atEnd, []⟩) fun _ _ => iterInc_eq_map _

theorem iterPostInc_eq_map (s : State) :
    iterPostInc s = (advance s s.it).map fun i => { s with it := i, its := s.it }.respond (flag64 i.atEnd) := by
  rcases iterPostInc_cases s with ⟨r, hr, e⟩ | ⟨i, hi, e⟩
  · rw [hr, e]; rfl
  · rw [hi, e]; rfl

theorem iterPostInc_settles : SettlesOrRaises c d iterPostInc :=
  .of_lookup (advance (unported c d) d.it)
    (fun i => { d with it := i, its := d.it }) (fun i => ⟨statusOk, flag64 i.atEnd, []⟩)
    fun _ _ => iterPostInc_eq_map _

/-! Every instruction, every frame -/

theorem pseudocode_settles {i : Instr} (hr : ¬runsHalted i) : SettlesOrRaises c d (pseudocode i) := by
  cases i with
  | lhSet len ctrl dest src =>
    exact .inl ⟨{ d with lh := ⟨len, ctrl, dest, src⟩ }, ⟨statusOk, LinkHeader.pack ⟨len, ctrl, dest, src⟩, []⟩,
      fun _ _ => rfl⟩
  | lhGet => exact .inl ⟨d, ⟨statusOk, d.lh.pack, []⟩, fun _ _ => rfl⟩
  | lhRead addr => exact linkRead_settles addr
  | lhWrite addr => exact linkWrite_settles addr
  | lhCtrl dir fcb fcv func =>
    exact .inl ⟨d, ⟨statusOk, (controlByte dir fcb fcv func).setWidth 64, []⟩, fun _ _ => rfl⟩
  | lhChfcb fcb =>
    exact .inl ⟨{ d with lh := { d.lh with ctrl := setFcb d.lh.ctrl fcb } },
      ⟨statusOk, (setFcb d.lh.ctrl fcb).setWidth 64, []⟩, fun _ _ => rfl⟩
  | lhFunc => exact .inl ⟨d, ⟨statusOk, (d.lh.ctrl &&& 0x4F#8).setWidth 64, []⟩, fun _ _ => rfl⟩
  | crcCalc addr len => exact crcCalc_settles addr len
  | tlUp => exact .of_ok layerUp_settles
  | tlDown => exact .of_ok layerDown_settles
  | tlSend addr len => exact send_settles addr len
  | tlRecv addr len => exact receive_settles addr len
  | tlSucc => exact sendSuccess_settles
  | tlFail => exact .of_ok sendFailure_settles
  | ohParse otype osize addr => exact headerParse_settles otype osize addr
  | oiInit hasdata dataaddr => exact iterInit_settles hasdata dataaddr
  | oiHasdata => exact .inl ⟨d, ⟨statusOk, flag64 d.it.hasData, []⟩, fun _ _ => rfl⟩
  | oiDeref => exact iterDeref_settles
  | oiInfo => exact iterInfo_settles
  | oiInc => exact iterInc_settles
  | oiPinc => exact iterPostInc_settles
  | oiCount => exact .inl ⟨d, ⟨statusOk, BitVec.ofNat 64 d.it.h.count, []⟩, fun _ _ => rfl⟩
  | oiIsend => exact .inl ⟨d, ⟨statusOk, flag64 d.it.atEnd, []⟩, fun _ _ => rfl⟩
  | oiSwap => exact .inl ⟨{ d with it := d.its, its := d.it }, ⟨statusOk, 0, []⟩, fun _ _ => rfl⟩
  | sysStat => exact absurd (.inl rfl) hr
  | sysReset => exact absurd (.inr (.inl rfl)) hr
  | sysFinfo => exact absurd (.inr (.inr rfl)) hr
  | wrU8 | wrI8 | wrU16LE | wrU16BE | wrI16LE | wrI16BE | wrU32LE | wrU32BE | wrI32LE | wrI32BE | wrU48LE | wrU48BE
  | wrU64LE | wrU64BE | wrI64LE | wrI64BE | wrF32LE | wrF32BE | wrF64LE | wrF64BE => exact codecWrite_settles ..
  | _ => exact codecRead_settles ..

theorem exec_settles (i : Instr) : Settles .next c d (exec i) := by
  by_cases hr : runsHalted i
  · rcases hr with rfl | rfl | rfl
    · exact ⟨d, ⟨statusOk, (unported c d).statusWord, []⟩, fun _ _ => exec_sysStat _⟩
    · exact ⟨(unported c d).resetRegisters.toDcb, ⟨statusOk, 0, []⟩, fun _ _ => exec_sysReset _⟩
    · exact ⟨d, ⟨statusOk, d.fsr.finfo, []⟩, fun _ _ => exec_sysFinfo _⟩
  · exact (runCommand_settles i.opcode (pseudocode_settles hr)).congr fun _ _ => exec_command hr _

theorem runFrame_settles (f : Frame) : Settles .next c d (runFrame f) := by
  cases h : decode f with
  | ok i => exact (exec_settles i).congr fun _ _ => runFrame_decoded h _
  | error e => exact (illegalCommand_settles f.cw).congr fun _ _ => runFrame_illegal h _

end

/-! The steps of the boundary -/

theorem step_command (c : Config) (d : Dcb) (f : Frame) (rest : List HostAct) (rsp : Option Response) :
    step ⟨d, ⟨c, .command f :: rest, rsp⟩⟩ = runFrame f ⟨d, ⟨c, rest, none⟩⟩ := rfl

theorem step_store (c : Config) (d : Dcb) (addr : Nat) (bytes : List Byte) (rest : List HostAct)
    (rsp : Option Response) :
    step ⟨d, ⟨c, .store addr bytes :: rest, rsp⟩⟩ = hostStore addr bytes ⟨d, ⟨c, rest, none⟩⟩ := rfl

theorem step_idle (c : Config) (d : Dcb) (rsp : Option Response) :
    step ⟨d, ⟨c, [], rsp⟩⟩ = .next ⟨d, ⟨c, [], none⟩⟩ := rfl

/-- Settles O57: each instruction's answer is named before the ports are given (`exec_settles`), and a step gives them
to it as arguments. -/
theorem portsAndParametersAreNotState : Obligations.PortsAndParametersAreNotState := by
  refine ⟨fun c f d => ?_, fun c i d => exec_settles i, fun c addr bytes d h => ?_, step_idle⟩
  · obtain ⟨d', r, hf⟩ := runFrame_settles (c := c) (d := d) f
    exact ⟨d', r, fun rest rsp => (step_command ..).trans (hf rest none)⟩
  · exact ⟨d.buf.writeBytes addr bytes, fun rest rsp =>
      (step_store ..).trans (hostStore_eq.trans (if_pos (.inr h)))⟩

end Sys2Proof.Machine
end

section
/-! PROOFS about the CRC (30_encoding.md R103): the model's 16-bit register follows the rule's pseudocode on naturals,
bit by bit, then byte by byte, then over a list. -/

namespace Sys2Proof.Machine

open Sys2Proof Sys2Proof.Claims

/-- The tested bit is the parity, the shift is the halving. -/
theorem crcBit_toNat (c : Half) : (crcBit c).toNat = crcShift c.toNat := by
  have hodd : c.getLsbD 0 = true ↔ c.toNat % 2 = 1 := by
    rw [BitVec.getLsbD, Nat.testBit_zero, decide_eq_true_iff]
  have hhalf : (c >>> 1).toNat = c.toNat / 2 := by
    rw [BitVec.toNat_ushiftRight, Nat.shiftRight_one]
  by_cases h : c.toNat % 2 = 1
  · rw [crcBit, crcShift, if_pos (hodd.mpr h), if_pos h, BitVec.toNat_xor, hhalf]
    rfl
  · rw [crcBit, crcShift, if_neg (mt hodd.mp h), if_neg h, hhalf]

theorem crcBits_toNat (k : Nat) (c : Half) : (crcBits k c).toNat = crcShift^[k] c.toNat := by
  induction k generalizing c with
  | zero => rfl
  | succ k ih => rw [crcBits, ih, crcBit_toNat, Function.iterate_succ_apply]

theorem crcByte_toNat (c : Half) (b : Byte) : (crcByte c b).toNat = crcShift^[8] (c.toNat ^^^ b.toNat) := by
  rw [crcByte, crcBits_toNat, BitVec.toNat_xor, BitVec.toNat_setWidth_of_le (by decide)]

/-- The model's register and the rule's number are one fold, seen through `toNat`. -/
theorem crc16_toNat (bytes : List Byte) : (crc16 bytes).toNat = crcNumber bytes := by
  have hfold : (bytes.foldl crcByte 0x0000#16).toNat = bytes.foldl (fun c b => crcShift^[8] (c ^^^ b.toNat)) 0 :=
    (List.foldl_hom BitVec.toNat fun c b => (crcByte_toNat c b).symm).symm
  rw [crc16, BitVec.toNat_xor, hfold]
  rfl

/-- Settles O22: the model is the algorithm for every list (`crc16_toNat`); the check values are runs of the rule's
pseudocode. -/
theorem crc16IsTheBitSerialAlgorithm : Obligations.Crc16IsTheBitSerialAlgorithm := by
  refine ⟨crc16_toNat, ?_, rfl, ?_⟩
  · simp [crcNumber, crcShift]
  · simp [crcNumber, crcShift]

end Sys2Proof.Machine
end

section
/-! PROOFS about the byte codec (40_byte_codec.md): what the 20 reads answer, what the 20 writes store, and the round
trips of R150. Each instruction is a byte order, an extension or a stored number, and a width; the rules are proved once
for all of these. -/

namespace Sys2Proof.Machine

open Sys2Proof Sys2Proof.Claims

/-! The error of an access outside `BUF` -/

theorem State.raise_eq_raised (s : State) (opc : Byte) (r : Raise) :
    s.raise opc r = raised s r.err.code opc r.info := by
  obtain ⟨err, info⟩ := r
  cases err <;> rfl

@[simp] theorem extractLsb'_encode_cw (i : Instr) : (encode i).cw.extractLsb' 24 8 = i.opcode :=
  opcodeField_append i.opcode i.arg

/-- A command that runs into the range check of `MemRead` or `MemWrite` raises the fatal error, with its address. -/
theorem raises_of_bufRange {i : Instr} {body : State → Except Raise State} {s : State} {addr : Word}
    (hi : exec i s = runCommand i.opcode body s) (hs : s.halt = false) (hb : body s = .error (bufRange addr.toNat)) :
    Raises i s 0x07 (addr.setWidth 64) := by
  rw [Raises, hi, runCommand_running hs, hb, State.finish_error, State.raise_eq_raised, extractLsb'_encode_cw,
    bufRange, BitVec.ofNat_toNat]
  rfl

/-! The numbers of R144 and R145 -/

theorem pow_256 (w : Nat) : 256 ^ w = 2 ^ (8 * w) := by rw [pow_mul]; norm_num

/-- The positional sum that a byte order means. -/
def ByteOrder.number : ByteOrder → Memory → Nat → Nat → Nat
  | .little => littleEndian
  | .big => bigEndian

theorem ByteOrder.value_readBytes (o : ByteOrder) (m : Memory) (a w : Nat) :
    o.value (m.readBytes a w) = o.number m a w := by
  cases o with
  | little =>
    rw [ByteOrder.value, le_eq_sum, Memory.length_readBytes]
    exact Finset.sum_congr rfl fun k hk => by rw [Memory.getD_readBytes _ _ _ _ (Finset.mem_range.1 hk)]
  | big =>
    rw [ByteOrder.value, be_eq_sum, Memory.length_readBytes]
    exact Finset.sum_congr rfl fun k hk => by rw [Memory.getD_readBytes _ _ _ _ (Finset.mem_range.1 hk)]

theorem ByteOrder.number_lt (o : ByteOrder) (m : Memory) (a w : Nat) : o.number m a w < 256 ^ w := by
  simpa [ByteOrder.value_readBytes] using o.value_lt (m.readBytes a w)

/-- The signed number that a byte order means. -/
def ByteOrder.signed : ByteOrder → Memory → Nat → Nat → Nat
  | .little => signedLittle
  | .big => signedBig

theorem ByteOrder.signed_eq (o : ByteOrder) (m : Memory) (a w : Nat) :
    o.signed m a w = twosComplement w (o.number m a w) := by cases o <;> rfl

/-- Sign extension is R145's formula: the pattern itself, or the pattern with the bits above it set. -/
theorem sext64_eq {w u : Nat} (hw : w ≤ 8) (hu : u < 256 ^ w) : sext64 w u = BitVec.ofNat 64 (twosComplement w u) := by
  rw [pow_256] at hu
  have hle : 2 ^ (8 * w) ≤ 2 ^ 64 := Nat.pow_le_pow_right (by decide) (by omega)
  apply BitVec.eq_of_toNat_eq
  rw [sext64, BitVec.toNat_signExtend, BitVec.msb_eq_decide, BitVec.toNat_setWidth, BitVec.toNat_ofNat,
    BitVec.toNat_ofNat, Nat.mod_eq_of_lt hu, Nat.mod_eq_of_lt (hu.trans_le hle), twosComplement]
  by_cases h : u < 2 ^ (8 * w - 1)
  · rw [if_pos h, if_neg (by simpa using h), Nat.add_zero, Nat.mod_eq_of_lt (hu.trans_le hle)]
  · rw [if_neg h, if_pos (by simpa using h), Nat.mod_eq_of_lt (by omega), Nat.add_sub_assoc hle]

/-- The low bytes of the 64-bit pattern of a signed number are its own pattern. -/
theorem twosComplement_mod {w u : Nat} (hw : w ≤ 8) (hu : u < 256 ^ w) :
    twosComplement w u % 2 ^ 64 % 256 ^ w = u := by
  rw [pow_256] at hu ⊢
  have hdvd : 2 ^ (8 * w) ∣ 2 ^ 64 := Nat.pow_dvd_pow 2 (by omega)
  rw [Nat.mod_mod_of_dvd _ hdvd, twosComplement]
  by_cases h : u < 2 ^ (8 * w - 1)
  · rw [if_pos h, Nat.mod_eq_of_lt hu]
  · obtain ⟨c, hc⟩ := Nat.dvd_sub hdvd (dvd_refl (2 ^ (8 * w)))
    rw [if_neg h, Nat.add_sub_assoc (Nat.le_of_dvd (by decide) hdvd), hc, Nat.add_mul_mod_self_left,
      Nat.mod_eq_of_lt hu]

/-- A signed number in range is the sign extension of its low bytes. -/
theorem sext64_low {w : Nat} {v : DWord} (hw : 1 ≤ w ∧ w ≤ 8) (hlo : -(2 ^ (8 * w - 1)) ≤ v.toInt)
    (hhi : v.toInt < 2 ^ (8 * w - 1)) : sext64 w (v.toNat % 256 ^ w) = v := by
  have hlow : BitVec.ofNat (8 * w) (v.toNat % 256 ^ w) = v.setWidth (8 * w) :=
    BitVec.eq_of_toNat_eq (by simp [pow_256])
  have hdvd : 2 ^ (8 * w) ∣ 2 ^ 64 := Nat.pow_dvd_pow 2 (by omega)
  obtain ⟨k, hk⟩ : ∃ k, 8 * w = k + 1 := ⟨8 * w - 1, by omega⟩
  rw [hk, Nat.add_sub_cancel] at hlo hhi
  apply BitVec.eq_of_toInt_eq
  calc (sext64 w (v.toNat % 256 ^ w)).toInt
      = (v.toNat : Int).bmod (2 ^ (8 * w)) := by
        rw [sext64, hlow, BitVec.toInt_signExtend_of_le (by omega), BitVec.toInt_setWidth]
    _ = v.toInt.bmod (2 ^ (8 * w)) := by rw [v.toInt_eq_toNat_bmod, Int.bmod_bmod_of_dvd hdvd]
    _ = v.toInt := by
        rw [hk, pow_succ]
        exact Int.bmod_eq_of_le (by push_cast; omega) (by push_cast; omega)

/-! The bytes of R144 and the clamp of R153 -/

/-- Which byte of the number, counted from the least significant, is the `k`-th of its `w` bytes. -/
def ByteOrder.place : ByteOrder → Nat → Nat → Nat
  | .little, _, k => k
  | .big, w, k => w - 1 - k

/-- The `k`-th byte that a byte order stores of a `w`-byte value. -/
def ByteOrder.byte : ByteOrder → Nat → DWord → Nat → Byte
  | .little, _ => lowFirst
  | .big, w => highFirst w

theorem ByteOrder.byte_eq (o : ByteOrder) (w : Nat) (v : DWord) (k : Nat) :
    o.byte w v k = BitVec.ofNat 8 (v.toNat / 256 ^ o.place w k) := by
  have hbits (j : Nat) : v.extractLsb' (8 * j) 8 = BitVec.ofNat 8 (v.toNat / 256 ^ j) := by
    rw [BitVec.extractLsb', Nat.shiftRight_eq_div_pow, pow_256]
  cases o <;> exact hbits _

theorem ByteOrder.getD_bytes (o : ByteOrder) (v w k : Nat) (h : k < w) (d : Byte) :
    (o.bytes v w).getD k d = BitVec.ofNat 8 (v / 256 ^ o.place w k) := by
  cases o with
  | little => exact getD_leBytes v w k h d
  | big => exact getD_beBytes v w k h d

theorem ByteOrder.place_lt (o : ByteOrder) {w k : Nat} (h : k < w) : o.place w k < w := by
  cases o <;> simp only [ByteOrder.place] <;> omega

theorem toNat_bits_63_48 (v : DWord) : (v.extractLsb' 48 16).toNat = v.toNat / 2 ^ 48 := by
  have hlt : v.toNat / 2 ^ 48 < 2 ^ 16 := Nat.div_lt_of_lt_mul v.isLt
  rw [BitVec.extractLsb'_toNat, Nat.shiftRight_eq_div_pow, Nat.mod_eq_of_lt hlt]

theorem clamp48_of_lt {v : DWord} (h : v.toNat < 2 ^ 48) : clamp48 v = v.toNat := by
  have hhigh : v.extractLsb' 48 16 = 0 := BitVec.eq_of_toNat_eq ((toNat_bits_63_48 v).trans (Nat.div_eq_of_lt h))
  rw [clamp48, if_neg (not_not.2 hhigh), BitVec.extractLsb'_toNat, Nat.shiftRight_zero, Nat.mod_eq_of_lt h]

theorem clamp48_of_le {v : DWord} (h : 2 ^ 48 ≤ v.toNat) : clamp48 v = 2 ^ 48 - 1 := by
  have hhigh : v.extractLsb' 48 16 ≠ 0 := fun hz => by
    have hdiv : 0 = v.toNat / 2 ^ 48 := (congrArg BitVec.toNat hz).symm.trans (toNat_bits_63_48 v)
    omega
  rw [clamp48, if_pos hhigh]

theorem byte_of_max48 {j : Nat} (h : j < 6) : BitVec.ofNat 8 ((2 ^ 48 - 1) / 256 ^ j) = 0xFF := by
  interval_cases j <;> rfl

theorem ByteOrder.clamped_byte_eq (o : ByteOrder) {k : Nat} (v : DWord) (h : k < 6) :
    clamped (o.byte 6) v k = BitVec.ofNat 8 (clamp48 v / 256 ^ o.place 6 k) := by
  rw [clamped]
  split
  case isTrue hv => rw [clamp48_of_le hv, byte_of_max48 (o.place_lt h)]
  case isFalse hv => rw [clamp48_of_lt (Nat.lt_of_not_le hv), o.byte_eq]

/-! The reads (R142) -/

/-- A family of reads: each runs the codec's read of `w` bytes in an order, extended by `ext`. -/
def RunsRead (rd : Word → Instr) (w : Nat) (o : ByteOrder) (ext : Nat → DWord) : Prop :=
  ∀ addr s, exec (rd addr) s = runCommand (rd addr).opcode (codecRead w o ext addr) s

/-- The decoder reads the instruction off this opcode, `OPA` being its only operand. -/
def DecodesRead (opc : Byte) (rd : Word → Instr) : Prop :=
  ∀ {f : Frame}, opcodeField f.cw = opc → decode f = noArg f.cw (rd f.opa)

section
variable {cw : Word} {opc : Byte} {rd : Word → Instr} {w : Nat} {o : ByteOrder} {ext : Nat → DWord}

theorem RunsRead.exec_in (h : RunsRead rd w o ext) {addr : Word} {s : State} (hs : s.halt = false)
    (ha : addr.toNat + w ≤ s.cfg.bufSize) :
    exec (rd addr) s = .next (s.respond (ext (o.value (s.buf.readBytes addr.toNat w)))) := by
  rw [h, runCommand_running hs, codecRead_eq_ok.2 ⟨.inr ha, rfl⟩, State.finish_ok]

/-- The rule of a read follows from what its extension makes of the number in `BUF`. -/
theorem RunsRead.readRule {value : Memory → Nat → Nat → Nat} (h : RunsRead rd w o ext) (hw : w ≠ 0)
    (hd : DecodesRead opc rd) (hcw : opcodeField cw = opc ∧ argField cw = 0)
    (hv : ∀ m a, ext (o.number m a w) = BitVec.ofNat 64 (value m a w)) : ReadRule cw rd w value := by
  refine ⟨fun addr opb => (hd (f := ⟨cw, addr, opb⟩) hcw.1).trans (noArg_eq_ok.2 ⟨hcw.2, rfl⟩),
    fun addr s hs => ⟨fun ha => ?inside, fun ha => ?outside⟩⟩
  case inside =>
    rw [Answers, h.exec_in hs ha, o.value_readBytes, hv]
    rfl
  case outside => exact raises_of_bufRange (h addr s) hs (codecRead_eq_error.2 ⟨hw, ha, rfl⟩)

/-- An unsigned read or a float read (R146, R155). -/
theorem zext_readRule (o : ByteOrder) (hd : DecodesRead opc rd) (h : RunsRead rd w o zext64) (hw : w ≠ 0 := by decide)
    (hcw : opcodeField cw = opc ∧ argField cw = 0 := by decide) : ReadRule cw rd w o.number :=
  h.readRule hw hd hcw fun _ _ => rfl

/-- A signed read (R145). -/
theorem sext_readRule (o : ByteOrder) (hd : DecodesRead opc rd) (h : RunsRead rd w o (sext64 w))
    (hw : w ≠ 0 ∧ w ≤ 8 := by decide) (hcw : opcodeField cw = opc ∧ argField cw = 0 := by decide) :
    ReadRule cw rd w o.signed :=
  h.readRule hw.1 hd hcw fun m a => by rw [sext64_eq hw.2 (o.number_lt m a w), o.signed_eq]

end

/-- Settles O13: each of the nine is a zero-extended read. -/
theorem unsignedReadsReturnTheNumberInBuf : Obligations.UnsignedReadsReturnTheNumberInBuf :=
  ⟨zext_readRule .little decode_rdU8 fun _ _ => rfl,
   zext_readRule .little decode_rdU16LE fun _ _ => rfl, zext_readRule .big decode_rdU16BE fun _ _ => rfl,
   zext_readRule .little decode_rdU32LE fun _ _ => rfl, zext_readRule .big decode_rdU32BE fun _ _ => rfl,
   zext_readRule .little decode_rdU48LE fun _ _ => rfl, zext_readRule .big decode_rdU48BE fun _ _ => rfl,
   zext_readRule .little decode_rdU64LE fun _ _ => rfl, zext_readRule .big decode_rdU64BE fun _ _ => rfl⟩

/-- Settles O14: each of the seven is a sign-extended read. -/
theorem signedReadsReturnTheNumberInBuf : Obligations.SignedReadsReturnTheNumberInBuf :=
  ⟨sext_readRule .little decode_rdI8 fun _ _ => rfl,
   sext_readRule .little decode_rdI16LE fun _ _ => rfl, sext_readRule .big decode_rdI16BE fun _ _ => rfl,
   sext_readRule .little decode_rdI32LE fun _ _ => rfl, sext_readRule .big decode_rdI32BE fun _ _ => rfl,
   sext_readRule .little decode_rdI64LE fun _ _ => rfl, sext_readRule .big decode_rdI64BE fun _ _ => rfl⟩

/-- Settles O15: each of the four is a zero-extended read, so the bit pattern comes out unchanged. -/
theorem floatReadsReturnTheBitPattern : Obligations.FloatReadsReturnTheBitPattern :=
  ⟨zext_readRule .little decode_rdF32LE fun _ _ => rfl, zext_readRule .big decode_rdF32BE fun _ _ => rfl,
   zext_readRule .little decode_rdF64LE fun _ _ => rfl, zext_readRule .big decode_rdF64BE fun _ _ => rfl⟩

/-! The writes (R143) -/

/-- A family of writes: each runs the codec's write of `w` bytes of the number `stored` makes of the value. -/
def RunsWrite (wr : Word → DWord → Instr) (w : Nat) (o : ByteOrder) (stored : DWord → Nat) : Prop :=
  ∀ addr v s, exec (wr addr v) s = runCommand (wr addr v).opcode (codecWrite w o addr (stored v)) s

/-- The decoder reads the instruction off this opcode, its operands being `OPA` and `OPB`. -/
def DecodesWrite (opc : Byte) (wr : Word → DWord → Instr) : Prop :=
  ∀ {f : Frame}, opcodeField f.cw = opc → decode f = noArg f.cw (wr f.opa f.opb)

section
variable {cw : Word} {opc : Byte} {wr : Word → DWord → Instr} {w : Nat} {o : ByteOrder} {stored : DWord → Nat}

theorem RunsWrite.exec_in (h : RunsWrite wr w o stored) {addr : Word} {v : DWord} {s : State} (hs : s.halt = false)
    (ha : addr.toNat + w ≤ s.cfg.bufSize) : exec (wr addr v) s =
      .next ({ s with buf := s.buf.writeBytes addr.toNat (o.bytes (stored v) w) }.respond 0) := by
  rw [h, runCommand_running hs, codecWrite_eq_ok.2 ⟨.inr ha, rfl⟩, State.finish_ok]

/-- The rule of a write follows from which bytes its stored number has. -/
theorem RunsWrite.writeRule {byte : DWord → Nat → Byte} (h : RunsWrite wr w o stored) (hw : w ≠ 0)
    (hd : DecodesWrite opc wr) (hcw : opcodeField cw = opc ∧ argField cw = 0)
    (hv : ∀ v, ∀ k < w, byte v k = BitVec.ofNat 8 (stored v / 256 ^ o.place w k)) : WriteRule cw wr w byte := by
  refine ⟨fun addr v => (hd (f := ⟨cw, addr, v⟩) hcw.1).trans (noArg_eq_ok.2 ⟨hcw.2, rfl⟩),
    fun addr v s hs => ⟨fun ha => ⟨_, h.exec_in hs ha, fun k hk => ?inside, fun b hb => ?frame⟩, fun ha => ?outside⟩⟩
  case inside => rw [Memory.read_writeBytes_in _ _ _ _ (by simpa using hk), o.getD_bytes _ _ _ hk, hv v k hk]
  case frame => exact Memory.read_writeBytes_out _ _ _ _ (by simpa using hb)
  case outside => exact raises_of_bufRange (h addr v s) hs (codecWrite_eq_error.2 ⟨hw, ha, rfl⟩)

/-- A write that stores the low bytes of its value as they are (R147, R155). -/
theorem low_writeRule (o : ByteOrder) (hd : DecodesWrite opc wr) (h : RunsWrite wr w o BitVec.toNat)
    (hw : w ≠ 0 := by decide) (hcw : opcodeField cw = opc ∧ argField cw = 0 := by decide) :
    WriteRule cw wr w (o.byte w) :=
  h.writeRule hw hd hcw fun v k _ => o.byte_eq w v k

/-- A 48-bit write (R153). -/
theorem clamped_writeRule (o : ByteOrder) (hd : DecodesWrite opc wr) (h : RunsWrite wr 6 o clamp48)
    (hcw : opcodeField cw = opc ∧ argField cw = 0 := by decide) : WriteRule cw wr 6 (clamped (o.byte 6)) :=
  h.writeRule (by decide) hd hcw fun v _ hk => o.clamped_byte_eq v hk

end

/-- Settles O16: each of the seven stores its value's low bytes. -/
theorem unsignedWritesStoreTheLowBytes : Obligations.UnsignedWritesStoreTheLowBytes :=
  ⟨low_writeRule .little decode_wrU8 fun _ _ _ => rfl,
   low_writeRule .little decode_wrU16LE fun _ _ _ => rfl, low_writeRule .big decode_wrU16BE fun _ _ _ => rfl,
   low_writeRule .little decode_wrU32LE fun _ _ _ => rfl, low_writeRule .big decode_wrU32BE fun _ _ _ => rfl,
   low_writeRule .little decode_wrU64LE fun _ _ _ => rfl, low_writeRule .big decode_wrU64BE fun _ _ _ => rfl⟩

/-- Settles O17: a signed write stores its value's low bytes too, with no case for the sign. -/
theorem signedWritesStoreTheLowBytes : Obligations.SignedWritesStoreTheLowBytes :=
  ⟨low_writeRule .little decode_wrI8 fun _ _ _ => rfl,
   low_writeRule .little decode_wrI16LE fun _ _ _ => rfl, low_writeRule .big decode_wrI16BE fun _ _ _ => rfl,
   low_writeRule .little decode_wrI32LE fun _ _ _ => rfl, low_writeRule .big decode_wrI32BE fun _ _ _ => rfl,
   low_writeRule .little decode_wrI64LE fun _ _ _ => rfl, low_writeRule .big decode_wrI64BE fun _ _ _ => rfl⟩

/-- Settles O18: a float write stores its value's low bytes, whatever pattern they are. -/
theorem floatWritesStoreTheLowBytes : Obligations.FloatWritesStoreTheLowBytes :=
  ⟨low_writeRule .little decode_wrF32LE fun _ _ _ => rfl, low_writeRule .big decode_wrF32BE fun _ _ _ => rfl,
   low_writeRule .little decode_wrF64LE fun _ _ _ => rfl, low_writeRule .big decode_wrF64BE fun _ _ _ => rfl⟩

/-- Settles O19: the stored number is the clamped one (`ByteOrder.clamped_byte_eq`). -/
theorem writesOf48BitsClamp : Obligations.WritesOf48BitsClamp :=
  ⟨clamped_writeRule .little decode_wrU48LE fun _ _ _ => rfl, clamped_writeRule .big decode_wrU48BE fun _ _ _ => rfl⟩

/-! The round trips (R150) -/

/-- Storing the bytes that stand there changes no byte. -/
theorem Memory.read_writeBytes_readBytes (m : Memory) (a n b : Nat) :
    (m.writeBytes a (m.readBytes a n)).read b = m.read b := by
  rw [Memory.read_writeBytes, Memory.length_readBytes]
  split
  case isTrue h => rw [Memory.getD_readBytes _ _ _ _ (by omega), Nat.add_sub_cancel' h.1]
  case isFalse => rfl

/-- A codec type in the model's terms: how its two instructions run, that a value read is stored as the number it came
from, and what a stored number reads back as. -/
structure CodecOf (T : CodecType) (o : ByteOrder) (ext : Nat → DWord) (stored : DWord → Nat) : Prop where
  runsRead : RunsRead T.rd T.width o ext
  runsWrite : RunsWrite T.wr T.width o stored
  stored_ext : ∀ u < 256 ^ T.width, stored (ext u) % 256 ^ T.width = u
  ext_inRange : ∀ v, T.inRange v → ext (stored v % 256 ^ T.width) = v
  ext_outOfRange : ∀ v, ¬T.inRange v → ext (stored v % 256 ^ T.width) = T.readBack v

section
variable {T : CodecType} {o : ByteOrder} {ext : Nat → DWord} {stored : DWord → Nat} {addr : Word} {s : State}

theorem CodecOf.bytes_stored_ext (h : CodecOf T o ext stored) (m : Memory) (a : Nat) :
    o.bytes (stored (ext (o.value (m.readBytes a T.width)))) T.width = m.readBytes a T.width := by
  have hlen := m.length_readBytes a T.width
  have hlt := o.value_lt (m.readBytes a T.width)
  have hback := o.bytes_value (m.readBytes a T.width)
  rw [hlen] at hlt hback
  rw [← o.bytes_mod, h.stored_ext _ hlt, hback]

theorem CodecOf.read_then_write (h : CodecOf T o ext stored) (hs : s.halt = false)
    (ha : addr.toNat + T.width ≤ s.cfg.bufSize) :
    ∃ t u v, exec (T.rd addr) s = .next t ∧ t.result = some v ∧ exec (T.wr addr v) t = .next u ∧
      u.status = some 0x00 ∧ ∀ b, u.buf.read b = s.buf.read b := by
  refine ⟨_, _, _, h.runsRead.exec_in hs ha, rfl, h.runsWrite.exec_in hs ha, rfl, fun b => ?_⟩
  rw [State.respond_buf, State.respond_buf, h.bytes_stored_ext]
  exact Memory.read_writeBytes_readBytes _ _ _ b

theorem CodecOf.write_then_read (h : CodecOf T o ext stored) (hs : s.halt = false)
    (ha : addr.toNat + T.width ≤ s.cfg.bufSize) (v : DWord) :
    ∃ t u, exec (T.wr addr v) s = .next t ∧ exec (T.rd addr) t = .next u ∧ u.status = some 0x00 ∧
      u.result = some (ext (stored v % 256 ^ T.width)) := by
  refine ⟨_, _, h.runsWrite.exec_in hs ha, h.runsRead.exec_in hs ha, rfl, ?_⟩
  have hread := s.buf.readBytes_writeBytes addr.toNat (o.bytes (stored v) T.width)
  rw [o.length_bytes] at hread
  rw [State.respond_result, State.respond_buf, hread, o.value_bytes]

end

section
variable {rd : Word → Instr} {wr : Word → DWord → Instr} {w : Nat}

theorem toNat_zext64 {u : Nat} (hw : w ≤ 8) (hu : u < 256 ^ w) : (zext64 u).toNat = u := by
  have hle : 256 ^ w ≤ 256 ^ 8 := Nat.pow_le_pow_right (by decide) hw
  exact BitVec.toNat_ofNat .. |>.trans (Nat.mod_eq_of_lt (hu.trans_le hle))

theorem codecOf_plainType (o : ByteOrder) (hr : RunsRead rd w o zext64) (hwr : RunsWrite wr w o BitVec.toNat)
    (hw : w ≤ 8 := by decide) : ∃ o ext stored, CodecOf (plainType rd wr w) o ext stored :=
  ⟨o, zext64, BitVec.toNat,
  { runsRead := hr
    runsWrite := hwr
    stored_ext := fun u hu => by
      rw [toNat_zext64 hw hu]
      exact Nat.mod_eq_of_lt hu
    ext_inRange := fun v (hv : v.toNat < 2 ^ (8 * w)) => by
      change zext64 (v.toNat % 256 ^ w) = v
      rw [pow_256, Nat.mod_eq_of_lt hv, zext64, BitVec.ofNat_toNat, BitVec.setWidth_eq]
    ext_outOfRange := fun v _ => congrArg (fun n => zext64 (v.toNat % n)) (pow_256 w) }⟩

theorem codecOf_signedType (o : ByteOrder) (hr : RunsRead rd w o (sext64 w)) (hwr : RunsWrite wr w o BitVec.toNat)
    (hw : 1 ≤ w ∧ w ≤ 8 := by decide) : ∃ o ext stored, CodecOf (signedType rd wr w) o ext stored :=
  ⟨o, sext64 w, BitVec.toNat,
  { runsRead := hr
    runsWrite := hwr
    stored_ext := fun u hu => by
      rw [sext64_eq hw.2 hu, BitVec.toNat_ofNat]
      exact twosComplement_mod hw.2 hu
    ext_inRange := fun v hv => sext64_low hw hv.1 hv.2
    ext_outOfRange := fun v _ =>
      (sext64_eq hw.2 (Nat.mod_lt _ (by positivity))).trans
        (congrArg (fun n => BitVec.ofNat 64 (twosComplement w (v.toNat % n))) (pow_256 w)) }⟩

theorem codecOf_clampedType (o : ByteOrder) (hr : RunsRead rd 6 o zext64) (hwr : RunsWrite wr 6 o clamp48) :
    ∃ o ext stored, CodecOf (clampedType rd wr) o ext stored :=
  ⟨o, zext64, clamp48,
  { runsRead := hr
    runsWrite := hwr
    stored_ext := fun u (hu : u < 256 ^ 6) => by
      have hn : (zext64 u).toNat = u := toNat_zext64 (by decide) hu
      rw [clamp48_of_lt (hn.trans_lt hu), hn]
      exact Nat.mod_eq_of_lt hu
    ext_inRange := fun v (hv : v.toNat < 256 ^ 6) => by
      change zext64 (clamp48 v % 256 ^ 6) = v
      rw [clamp48_of_lt hv, Nat.mod_eq_of_lt hv, zext64, BitVec.ofNat_toNat, BitVec.setWidth_eq]
    ext_outOfRange := fun v hv => by
      rw [clamp48_of_le (Nat.le_of_not_lt hv)]
      rfl }⟩

end

theorem codecOf_codecTypes : ∀ T ∈ codecTypes, ∃ o ext stored, CodecOf T o ext stored := by
  simp only [codecTypes, List.forall_mem_cons]
  exact ⟨
    codecOf_plainType .little (fun _ _ => rfl) fun _ _ _ => rfl,
    codecOf_signedType .little (fun _ _ => rfl) fun _ _ _ => rfl,
    codecOf_plainType .little (fun _ _ => rfl) fun _ _ _ => rfl,
    codecOf_plainType .big (fun _ _ => rfl) fun _ _ _ => rfl,
    codecOf_signedType .little (fun _ _ => rfl) fun _ _ _ => rfl,
    codecOf_signedType .big (fun _ _ => rfl) fun _ _ _ => rfl,
    codecOf_plainType .little (fun _ _ => rfl) fun _ _ _ => rfl,
    codecOf_plainType .big (fun _ _ => rfl) fun _ _ _ => rfl,
    codecOf_signedType .little (fun _ _ => rfl) fun _ _ _ => rfl,
    codecOf_signedType .big (fun _ _ => rfl) fun _ _ _ => rfl,
    codecOf_clampedType .little (fun _ _ => rfl) fun _ _ _ => rfl,
    codecOf_clampedType .big (fun _ _ => rfl) fun _ _ _ => rfl,
    codecOf_plainType .little (fun _ _ => rfl) fun _ _ _ => rfl,
    codecOf_plainType .big (fun _ _ => rfl) fun _ _ _ => rfl,
    codecOf_signedType .little (fun _ _ => rfl) fun _ _ _ => rfl,
    codecOf_signedType .big (fun _ _ => rfl) fun _ _ _ => rfl,
    codecOf_plainType .little (fun _ _ => rfl) fun _ _ _ => rfl,
    codecOf_plainType .big (fun _ _ => rfl) fun _ _ _ => rfl,
    codecOf_plainType .little (fun _ _ => rfl) fun _ _ _ => rfl,
    codecOf_plainType .big (fun _ _ => rfl) fun _ _ _ => rfl,
    fun _ h => absurd h List.not_mem_nil⟩

/-- Settles O20: both laws hold of every codec in the model's terms, and the 20 types are such codecs
(`codecOf_codecTypes`). -/
theorem codecRoundTrips : Obligations.CodecRoundTrips := by
  intro T hT addr s hs ha
  obtain ⟨o, ext, stored, h⟩ := codecOf_codecTypes T hT
  refine ⟨h.read_then_write hs ha, fun v => ?_⟩
  obtain ⟨t, u, hwrite, hread, hstatus, hresult⟩ := h.write_then_read hs ha v
  refine ⟨t, u, hwrite, hread, hstatus, fun hv => ?_, fun hv => ?_⟩
  · rw [hresult, h.ext_inRange v hv]
  · rw [hresult, h.ext_outOfRange v hv]

end Sys2Proof.Machine
end

section
/-! PROOFS about the link header unit (41_link_header.md): the command words with fields, the numbers the packed layouts
spell, the ten bytes of a header in `BUF`, and from these the rules of the eight instructions. -/

namespace Sys2Proof.Machine

open Sys2Proof Sys2Proof.Claims

/-! The command words (R204 to R211). The statements write the fields of `LH.SET` and `LH.CTRL` shifted into place, the
encoder writes them side by side. -/

theorem decode_of_noArg {opc : Byte} {cw : Word} (i : Word → DWord → Instr)
    (hd : ∀ {f : Frame}, opcodeField f.cw = opc → decode f = noArg f.cw (i f.opa f.opb))
    (hcw : opcodeField cw = opc ∧ argField cw = 0) (opa : Word) (opb : DWord) :
    decode ⟨cw, opa, opb⟩ = .ok (i opa opb) :=
  (hd (f := ⟨cw, opa, opb⟩) hcw.1).trans (noArg_eq_ok.2 ⟨hcw.2, rfl⟩)

theorem lhSet_word (len ctrl : Byte) (dest src : Half) :
    0x40000000 ||| len.setWidth 32 <<< 8 ||| ctrl.setWidth 32 = (Instr.lhSet len ctrl dest src).word := by
  rw [← BitVec.setWidth_eq (Instr.word _), Instr.word, Instr.arg, Instr.opcode]
  simp only [BitVec.setWidth_append_eq_shiftLeft_setWidth_or, BitVec.or_assoc]
  simp

theorem lhSet_opa (len ctrl : Byte) (dest src : Half) :
    dest.setWidth 32 ||| src.setWidth 32 <<< 16 = (Instr.lhSet len ctrl dest src).opa := by
  rw [← BitVec.setWidth_eq (Instr.opa _), Instr.opa, BitVec.setWidth_append_eq_shiftLeft_setWidth_or, BitVec.or_comm]

theorem lhCtrl_word (dir fcb fcv : Bool) (func : Byte) :
    0x44000000 ||| (BitVec.ofBool dir).setWidth 32 <<< 10 ||| (BitVec.ofBool fcb).setWidth 32 <<< 9 |||
      (BitVec.ofBool fcv).setWidth 32 <<< 8 ||| func.setWidth 32 = (Instr.lhCtrl dir fcb fcv func).word := by
  rw [← BitVec.setWidth_eq (Instr.word _), Instr.word, Instr.arg, Instr.opcode]
  simp only [BitVec.setWidth_append_eq_shiftLeft_setWidth_or, BitVec.shiftLeft_or_distrib, BitVec.or_assoc]
  simp [← BitVec.shiftLeft_add]

theorem decode_of_lhSet_word {len ctrl : Byte} {dest src : Half} {f : Frame}
    (hcw : f.cw = (Instr.lhSet len ctrl dest src).word) (hopa : f.opa = (Instr.lhSet len ctrl dest src).opa) :
    decode f = .ok (.lhSet len ctrl dest src) := by
  have hopc : opcodeField f.cw = 0x40 := by rw [hcw]; exact opcodeField_append _ _
  rw [decode_lhSet hopc, withArg_eq_ok, hcw, hopa, Instr.word]
  refine ⟨?reserved, ?fields⟩
  case reserved =>
    have hmask : ~~~0x00FFFF#24 = 0xFF#8 ++ 0#8 ++ 0#8 := rfl
    rw [argField_append, hmask, Instr.arg, BitVec.and_append, BitVec.and_append]
    simp
  case fields =>
    rw [extractLsb'_word _ _ (by decide), extractLsb'_word _ _ (by decide), Instr.lhSet.injEq]
    exact ⟨(BitVec.extractLsb'_append_eq_of_le (le_refl 8)).trans BitVec.extractLsb'_append_eq_right,
      BitVec.extractLsb'_append_eq_right, BitVec.extractLsb'_append_eq_right, BitVec.extractLsb'_append_eq_left⟩

theorem decode_of_lhCtrl_word {dir fcb fcv : Bool} {func : Byte} {f : Frame}
    (hcw : f.cw = (Instr.lhCtrl dir fcb fcv func).word) : decode f = .ok (.lhCtrl dir fcb fcv func) := by
  have hopc : opcodeField f.cw = 0x44 := by rw [hcw]; exact opcodeField_append _ _
  rw [decode_lhCtrl hopc, withArg_eq_ok, hcw, Instr.word]
  refine ⟨?reserved, ?fields⟩
  case reserved =>
    have hmask : ~~~0x0007FF#24 = BitVec.allOnes 13 ++ 0#1 ++ 0#1 ++ 0#1 ++ 0#8 := rfl
    rw [argField_append, hmask, Instr.arg, BitVec.and_append, BitVec.and_append, BitVec.and_append, BitVec.and_append]
    simp
  case fields =>
    rw [extractLsb'_word _ _ (by decide), getLsbD_word _ _ (by decide), getLsbD_word _ _ (by decide),
      getLsbD_word _ _ (by decide), Instr.lhCtrl.injEq]
    refine ⟨?_, ?_, ?_, BitVec.extractLsb'_append_eq_right⟩
    all_goals
      simp only [Instr.arg, BitVec.getLsbD_append]
      simp

theorem plainWord_lhChfcb {cw : Word} {fcb : Bool}
    (hcw : opcodeField cw = 0x45 ∧ argField cw &&& ~~~0x000001#24 = 0 ∧ cw.getLsbD 0 = fcb) :
    PlainWord cw (.lhChfcb fcb) := fun opa opb => by
  obtain ⟨hopc, harg, hfcb⟩ := hcw
  rw [decode_lhChfcb (f := ⟨cw, opa, opb⟩) hopc, withArg_eq_ok, hfcb]
  exact ⟨harg, rfl⟩

/-! The numbers that answers and fields spell (R202, R208 to R210) -/

theorem toNat_append_add {n m : Nat} (x : BitVec n) (y : BitVec m) : (x ++ y).toNat = x.toNat * 2 ^ m + y.toNat := by
  rw [BitVec.toNat_append, ← Nat.shiftLeft_add_eq_or_of_lt y.isLt, Nat.shiftLeft_eq]

theorem setWidth_eq_ofNat {w n : Nat} {x : BitVec w} (h : x.toNat = n) : x.setWidth 64 = BitVec.ofNat 64 n := by
  rw [← h, BitVec.ofNat_toNat]

theorem LinkHeader.pack_eq (h : LinkHeader) : h.pack = packedHeader h := by
  have hnumber : h.pack.toNat = h.len.toNat + h.ctrl.toNat * 2 ^ 8 + h.dest.toNat * 2 ^ 16 + h.src.toNat * 2 ^ 32 +
      if 4 < h.len.toNat then 2 ^ 48 else 0 := by
    simp only [LinkHeader.pack, LinkHeader.valid, toNat_append_add, BitVec.toNat_zero, BitVec.toNat_ofBool]
    split
    case isTrue hvalid => rw [decide_eq_true hvalid, Bool.toNat_true]; omega
    case isFalse hvalid => rw [decide_eq_false hvalid, Bool.toNat_false]; omega
  rw [packedHeader, ← setWidth_eq_ofNat hnumber, BitVec.setWidth_eq]

/-- The layout of R208, from bit 7 down: `DIR`, `PRM`, `FCB`, `FCV` and the function code. -/
theorem controlByte_eq_append (dir fcb fcv : Bool) (func : Byte) :
    controlByte dir fcb fcv func =
      BitVec.ofBool dir ++ func.extractLsb' 6 1 ++ BitVec.ofBool fcb ++ BitVec.ofBool fcv ++ func.extractLsb' 0 4 := by
  apply BitVec.eq_of_getLsbD_eq
  intro k hk
  simp only [controlByte, BitVec.getLsbD_append, BitVec.getLsbD_or, BitVec.getLsbD_and, BitVec.getLsbD_shiftLeft,
    BitVec.getLsbD_setWidth, BitVec.getLsbD_extractLsb']
  interval_cases k <;> simp

theorem controlByte_toNat (dir fcb fcv : Bool) (func : Byte) :
    (controlByte dir fcb fcv func).toNat = func.toNat % 16 + func.toNat / 64 % 2 * 64 + dir.toNat * 128 +
      fcb.toNat * 32 + fcv.toNat * 16 := by
  simp only [controlByte_eq_append, toNat_append_add, BitVec.extractLsb'_toNat, BitVec.toNat_ofBool,
    Nat.shiftRight_eq_div_pow]
  omega

/-- The function identity of R210 is a control byte without its three flags. -/
theorem functionId_eq_controlByte (func : Byte) : func &&& 0x4F#8 = controlByte false false false func := by
  simp [controlByte]

theorem functionId_toNat (func : Byte) : (func &&& 0x4F#8).toNat = func.toNat % 16 + func.toNat / 64 % 2 * 64 := by
  rw [functionId_eq_controlByte, controlByte_toNat]
  rfl

theorem getLsbD_setFcb (ctrl : Byte) (fcb : Bool) {k : Nat} (hk : k < 8) :
    (setFcb ctrl fcb).getLsbD k = if k = 5 then fcb else ctrl.getLsbD k := by
  simp only [setFcb, BitVec.getLsbD_or, BitVec.getLsbD_and, BitVec.getLsbD_shiftLeft, BitVec.getLsbD_setWidth]
  interval_cases k <;> simp

/-! The ten bytes of a header (R206, R207) -/

/-- The ten bytes that `LH.WRITE` stores. -/
def LinkHeader.wireCrc (h : LinkHeader) : List Byte := h.wire ++ leBytes (crc16 h.wire).toNat 2

@[simp] theorem LinkHeader.length_wireCrc (h : LinkHeader) : h.wireCrc.length = 10 := by simp [LinkHeader.wireCrc]

theorem leBytes_half (x : Half) : leBytes x.toNat 2 = [x.extractLsb' 0 8, x.extractLsb' 8 8] := by
  simp [leBytes, BitVec.extractLsb', Nat.shiftRight_eq_div_pow]

theorem LinkHeader.wire_eq_map (h : LinkHeader) : h.wire = (List.range 8).map (wireByte h) := by
  rw [LinkHeader.wire, leBytes_half, leBytes_half]
  rfl

theorem LinkHeader.crc16_wire_toNat (h : LinkHeader) : (crc16 h.wire).toNat = headerCrc h := by
  rw [crc16_toNat, h.wire_eq_map, headerCrc]

theorem LinkHeader.getD_wireCrc (h : LinkHeader) {k : Nat} (hk : k < 10) (d : Byte) :
    h.wireCrc.getD k d = wireByteCrc h k := by
  rw [LinkHeader.wireCrc, wireByteCrc]
  by_cases hwire : k < 8
  · rw [if_pos hwire, List.getD_append _ _ _ _ (by simpa using hwire), h.wire_eq_map]
    simp [hwire]
  · rw [if_neg hwire, List.getD_append_right _ _ _ _ (by simpa using hwire), h.length_wire,
      getD_leBytes _ _ _ (by omega), h.crc16_wire_toNat]

/-- The fields of a header in `BUF`; bytes 0, 1, 8 and 9 are not looked at. -/
theorem LinkHeader.parse_readBytes (m : Memory) (a : Nat) :
    LinkHeader.parse (m.readBytes a 10) = ⟨m.read (a + 2), m.read (a + 3),
      BitVec.ofNat 16 (le (m.readBytes (a + 4) 2)), BitVec.ofNat 16 (le (m.readBytes (a + 6) 2))⟩ := rfl

theorem toNat_half_readBytes (m : Memory) (a : Nat) :
    (BitVec.ofNat 16 (le (m.readBytes a 2))).toNat = littleEndian m a 2 := by
  have hvalue : le (m.readBytes a 2) = littleEndian m a 2 := ByteOrder.little.value_readBytes m a 2
  rw [hvalue]
  exact Nat.mod_eq_of_lt (ByteOrder.little.number_lt m a 2)

/-- What `LH.READ` parses out of the bytes that `LH.WRITE` stores is the header. -/
theorem LinkHeader.parse_wireCrc (h : LinkHeader) : LinkHeader.parse h.wireCrc = h := by
  have hhalf (x : Half) : BitVec.ofNat 16 (le (leBytes x.toNat 2)) = x := by
    have hlt : x.toNat < 256 ^ 2 := x.isLt
    rw [le_leBytes, Nat.mod_eq_of_lt hlt, BitVec.ofNat_toNat, BitVec.setWidth_eq]
  calc LinkHeader.parse h.wireCrc
      = ⟨h.len, h.ctrl, BitVec.ofNat 16 (le (leBytes h.dest.toNat 2)),
          BitVec.ofNat 16 (le (leBytes h.src.toNat 2))⟩ := rfl
    _ = h := by rw [hhalf, hhalf]

/-! The instructions while the DCB is not halted -/

theorem exec_of_ok {i : Instr} {s t : State} (hi : exec i s = runCommand i.opcode (pseudocode i) s)
    (hs : s.halt = false) (hb : pseudocode i s = .ok t) : exec i s = .next t := by
  rw [hi, runCommand_running hs, hb, State.finish_ok]

section
variable {addr : Word} {s : State}

theorem exec_lhRead_in (hs : s.halt = false) (ha : addr.toNat + 10 ≤ s.cfg.bufSize) : exec (.lhRead addr) s =
    .next { s with lh := LinkHeader.parse (s.buf.readBytes addr.toNat 10) }.respondHeader :=
  exec_of_ok rfl hs (linkRead_eq_ok.2 ⟨ha, rfl⟩)

theorem exec_lhWrite_in (hs : s.halt = false) (ha : addr.toNat + 10 ≤ s.cfg.bufSize) : exec (.lhWrite addr) s =
    .next ({ s with buf := s.buf.writeBytes addr.toNat s.lh.wireCrc }.respond ((crc16 s.lh.wire).setWidth 64)) :=
  exec_of_ok rfl hs (linkWrite_eq.trans (if_pos ha))

theorem crcCalc_answers {len : DWord} (hs : s.halt = false)
    (ha : len.toNat = 0 ∨ addr.toNat + len.toNat ≤ s.cfg.bufSize) :
    Answers (.crcCalc addr len) s (BitVec.ofNat 64 (crcNumber (s.buf.readBytes addr.toNat len.toNat))) := by
  rw [← setWidth_eq_ofNat (crc16_toNat _)]
  exact exec_of_ok rfl hs (crcCalc_eq.trans (if_pos ha))

end

/-- Settles O23: the words are the encoder's (`lhSet_word`), the answers are the packed header (`LinkHeader.pack_eq`),
and `LH.READ` loads the fields of `LinkHeader.parse_readBytes`. -/
theorem linkHeaderIsSetReadAndReturned : Obligations.LinkHeaderIsSetReadAndReturned := by
  refine ⟨fun len ctrl dest src _ => decode_of_lhSet_word (lhSet_word ..) (lhSet_opa len ctrl dest src),
    fun s len ctrl dest src hs => ?set,
    decode_of_noArg (fun _ _ => .lhGet) decode_lhGet (by decide),
    fun s hs => ?get,
    decode_of_noArg (fun addr _ => .lhRead addr) decode_lhRead (by decide),
    fun addr s hs => ⟨fun ha => ?read, fun ha => ?outside⟩⟩
  case set =>
    rw [← LinkHeader.pack_eq]
    exact exec_of_ok rfl hs rfl
  case get =>
    rw [← LinkHeader.pack_eq]
    exact exec_of_ok rfl hs rfl
  case read =>
    refine ⟨LinkHeader.parse (s.buf.readBytes addr.toNat 10), ?_⟩
    rw [exec_lhRead_in hs ha, ← LinkHeader.pack_eq, LinkHeader.parse_readBytes]
    exact ⟨rfl, rfl, toNat_half_readBytes _ _, toNat_half_readBytes _ _, rfl⟩
  case outside => exact raises_of_bufRange rfl hs (linkRead_eq_error.2 ⟨ha, rfl⟩)

/-- Settles O24: the stored bytes are `LinkHeader.wireCrc`, read one by one. -/
theorem linkHeaderIsWrittenWithItsCrc : Obligations.LinkHeaderIsWrittenWithItsCrc := by
  refine ⟨decode_of_noArg (fun addr _ => .lhWrite addr) decode_lhWrite (by decide),
    fun addr s hs => ⟨fun ha => ?inside, fun ha => ?outside⟩⟩
  case inside =>
    rw [← setWidth_eq_ofNat s.lh.crc16_wire_toNat]
    refine ⟨_, exec_lhWrite_in hs ha, fun k hk => ?stored, fun b hb => ?kept⟩
    case stored => rw [Memory.read_writeBytes_in _ _ _ _ (by simpa using hk), LinkHeader.getD_wireCrc _ hk]
    case kept => exact Memory.read_writeBytes_out _ _ _ _ (by simpa using hb)
  case outside => exact raises_of_bufRange rfl hs (linkWrite_eq.trans (if_neg (Nat.not_le_of_lt ha)))

/-- Settles O25: the ten bytes read are the ten written, and they parse to the header they were written from
(`LinkHeader.parse_wireCrc`). -/
theorem linkHeaderRoundTrips : Obligations.LinkHeaderRoundTrips := by
  intro addr s hs ha
  refine ⟨_, exec_lhWrite_in hs ha, rfl, rfl, fun h => ⟨_, exec_lhRead_in hs ha, rfl, ?_⟩⟩
  have hread := s.buf.readBytes_writeBytes addr.toNat s.lh.wireCrc
  rw [LinkHeader.length_wireCrc] at hread
  rw [State.respondHeader_lh, State.respond_buf, hread, LinkHeader.parse_wireCrc]

/-- Settles O26: the packed byte is `controlByte_toNat`, the changed bit `getLsbD_setFcb`, the function identity
`functionId_toNat`. -/
theorem controlByteInstructions : Obligations.ControlByteInstructions := by
  refine ⟨fun _ _ _ _ _ _ => decode_of_lhCtrl_word (lhCtrl_word ..),
    fun s dir fcb fcv func hs => ?ctrl,
    plainWord_lhChfcb (by decide),
    plainWord_lhChfcb (by decide),
    fun s fcb hs => ⟨setFcb s.lh.ctrl fcb, fun _ hk => getLsbD_setFcb _ _ hk, exec_of_ok rfl hs rfl⟩,
    decode_of_noArg (fun _ _ => .lhFunc) decode_lhFunc (by decide),
    fun s hs => ?func⟩
  case ctrl =>
    rw [← setWidth_eq_ofNat (controlByte_toNat ..)]
    exact exec_of_ok rfl hs rfl
  case func =>
    rw [← setWidth_eq_ofNat (functionId_toNat _)]
    exact exec_of_ok rfl hs rfl

/-- Settles O27: an empty range is read nowhere, so it cannot raise; otherwise the range check decides. -/
theorem crcCalcReturnsTheCrcOfTheRange : Obligations.CrcCalcReturnsTheCrcOfTheRange := by
  refine ⟨decode_of_noArg .crcCalc decode_crcCalc (by decide),
    fun addr len s hs => ⟨fun hlen => ?empty, fun ha => ?inside, fun hlen ha => ?outside⟩⟩
  case empty =>
    subst hlen
    have hcrc : crcNumber (s.buf.readBytes addr.toNat (0 : DWord).toNat) = 0xFFFF := by
      simp [Memory.readBytes, crcNumber]
    have hanswer := crcCalc_answers (addr := addr) (len := 0) hs (.inl rfl)
    rwa [hcrc] at hanswer
  case inside =>
    rw [← Memory.readBytes_eq_map]
    exact crcCalc_answers hs (.inr ha)
  case outside =>
    have hlen' : len.toNat ≠ 0 := fun h => hlen (BitVec.eq_of_toNat_eq h)
    exact raises_of_bufRange rfl hs (crcCalc_eq.trans (if_neg (by omega)))

end Sys2Proof.Machine
end

section
/-! PROOFS about the transport unit (42_transport.md): how it answers, the header byte of a segment, and what each of
its instructions does. -/

namespace Sys2Proof.Machine

open Sys2Proof Sys2Proof.Claims

/-! The answers (R233) -/

theorem tlResult_eq_tlAnswer (t : Tls) (handled : Bool) : tlResult t handled = tlAnswer t handled := by
  cases t <;> cases handled <;> rfl

theorem State.tlIgnored_eq (s : State) :
    s.tlIgnored = { s with rsp := some ⟨0x00, tlAnswer s.tls false, []⟩ } := by
  rw [← tlResult_eq_tlAnswer]
  rfl

theorem State.tlHandled_eq (s : State) :
    s.tlHandled = { s with rsp := some ⟨0x00, tlAnswer s.tls true, []⟩ } := by
  rw [← tlResult_eq_tlAnswer]
  rfl

theorem State.tlEmit_eq (s : State) (e : Event) :
    s.tlEmit e = { s with rsp := some ⟨0x00, tlAnswer s.tls true, [e]⟩ } := by
  rw [← tlResult_eq_tlAnswer]
  rfl

section
variable {i : Instr} {s : State}

theorem answers_of_tlIgnored (hi : exec i s = runCommand i.opcode (pseudocode i) s) (hs : s.halt = false)
    (hb : pseudocode i s = .ok s.tlIgnored) : Answers i s (tlAnswer s.tls false) := by
  rw [Answers, ← State.tlIgnored_eq]
  exact exec_of_ok hi hs hb

theorem answers_of_tlHandled (hi : exec i s = runCommand i.opcode (pseudocode i) s) (hs : s.halt = false)
    (hb : pseudocode i s = .ok s.tlHandled) : Answers i s (tlAnswer s.tls true) := by
  rw [Answers, ← State.tlHandled_eq]
  exact exec_of_ok hi hs hb

theorem exec_of_tlEmit {t u : State} {e : Event} (hi : exec i s = runCommand i.opcode (pseudocode i) s)
    (hs : s.halt = false) (hb : pseudocode i s = .ok (t.tlEmit e))
    (hu : { t with rsp := some ⟨0x00, tlAnswer t.tls true, [e]⟩ } = u := by rfl) : exec i s = .next u := by
  rw [← hu, ← State.tlEmit_eq]
  exact exec_of_ok hi hs hb

theorem raises_of_error {r : Raise} (hi : exec i s = runCommand i.opcode (pseudocode i) s) (hs : s.halt = false)
    (hb : pseudocode i s = .error r) : Raises i s r.err.code r.info := by
  rw [Raises, hi, runCommand_running hs, hb, State.finish_error, State.raise_eq_raised, extractLsb'_encode_cw]

end

/-! Layer up, layer down, failure (R239, R248, R249) -/

/-- Settles O29: each instruction has one state (or two) in which it acts, and is ignored in the others
(`layerUp_cases`, `layerDown_cases`, `sendFailure_cases`). -/
theorem layerUpDownAndSendFailure : Obligations.LayerUpDownAndSendFailure := by
  refine ⟨decode_of_noArg (fun _ _ => .tlUp) decode_tlUp (by decide),
    decode_of_noArg (fun _ _ => .tlDown) decode_tlDown (by decide),
    decode_of_noArg (fun _ _ => .tlFail) decode_tlFail (by decide),
    fun s hs => ⟨fun ht => ⟨?up, ?notDown⟩, fun ht => ⟨?notUp, ?down⟩, fun ht => ?fail, fun ht => ?notFail⟩⟩
  case up => exact exec_of_tlEmit rfl hs (congrArg _ ((layerUp_cases s).resolve_right fun h => h.1 ht).2)
  case notDown =>
    have hanswer : Answers .tlDown s (tlAnswer s.tls false) :=
      answers_of_tlIgnored rfl hs (congrArg _ ((layerDown_cases s).resolve_right fun h => h.1 ht).2)
    rwa [ht] at hanswer
  case notUp => exact answers_of_tlIgnored rfl hs (congrArg _ ((layerUp_cases s).resolve_left fun h => ht h.1).2)
  case down => exact exec_of_tlEmit rfl hs (congrArg _ ((layerDown_cases s).resolve_left fun h => ht h.1).2)
  case fail => exact exec_of_tlEmit rfl hs (congrArg _ ((sendFailure_cases s).resolve_right fun h => h.1 ht).2)
  case notFail => exact answers_of_tlIgnored rfl hs (congrArg _ ((sendFailure_cases s).resolve_left fun h => ht h.1).2)

/-! Sequence numbers and header bytes (R235; 30_encoding.md R104) -/

theorem nextSeq_toNat (q : Seq) : (nextSeq q).toNat = (q.toNat + 1) % 64 := by
  rw [nextSeq, BitVec.toNat_add]
  rfl

theorem eq_nextSeq_iff {p q : Seq} : p = nextSeq q ↔ p.toNat = (q.toNat + 1) % 64 := by
  rw [← nextSeq_toNat, BitVec.toNat_inj]

theorem segmentHeader_eq_ofNat (fin fir : Bool) (seq : Seq) :
    segmentHeader fin fir seq =
      BitVec.ofNat 8 ((if fin then 128 else 0) + (if fir then 64 else 0) + seq.toNat) := by
  have hnumber : (segmentHeader fin fir seq).toNat =
      (if fin then 128 else 0) + (if fir then 64 else 0) + seq.toNat := by
    rw [segmentHeader, toNat_append_add, toNat_append_add, BitVec.toNat_ofBool, BitVec.toNat_ofBool]
    cases fin <;> cases fir <;> simp
  rw [← hnumber, BitVec.ofNat_toNat, BitVec.setWidth_eq]

theorem tpdu_eq (m : Memory) (a n : Nat) (fin fir : Bool) (seq : Seq) :
    tpdu m a n fin fir seq.toNat = segmentHeader fin fir seq :: m.readBytes a n := by
  rw [tpdu, segmentHeader_eq_ofNat, Memory.readBytes_eq_map]

/-! Transmit (R236 to R238) -/

theorem length_accepted {len : DWord} {n : Nat} (hpos : 1 ≤ len.toNat) (hn : len.toNat ≤ n) :
    ¬(len = 0 ∨ n < len.toNat) := by
  rintro (rfl | h)
  · exact absurd hpos (by decide)
  · omega

section
variable {s : State}

theorem exec_tlSend_accepted {addr : Word} {len : DWord} (hs : s.halt = false) (hpos : 1 ≤ len.toNat)
    (hfrag : len.toNat ≤ s.cfg.fragSize) (ht : s.tls = .ready) (hbuf : addr.toNat + len.toNat ≤ s.cfg.bufSize) :
    exec (.tlSend addr len) s = .next { s with
      tls := .sending
      tx := { s.tx with base := addr, len := len.toNat, sent := 0 }
      rsp := some ⟨0x00, 0x102, [.lowerSend (tpdu s.buf addr.toNat (min s.cfg.segPayload len.toNat)
        (decide (len.toNat ≤ s.cfg.segPayload)) true s.tx.seq.toNat)]⟩ } := by
  have hfin : decide (len.toNat ≤ s.cfg.segPayload) = decide (segmentSize s len.toNat 0 = len.toNat) :=
    decide_eq_decide.2 (by rw [segmentSize]; omega)
  rw [hfin, tpdu_eq]
  have hsend : send addr len s = acceptSend addr len.toNat s := send_ready (length_accepted hpos hfrag) ht
  exact exec_of_tlEmit rfl hs (hsend.trans ((acceptSend_eq ..).trans (if_pos hbuf)))

theorem exec_tlSucc_last (hs : s.halt = false) (ht : s.tls = .sending)
    (hlast : s.tx.len ≤ s.tx.sent + min s.cfg.segPayload (s.tx.len - s.tx.sent)) :
    exec .tlSucc s = .next { s with
      tls := .ready
      tx := s.tx.advanced (min s.cfg.segPayload (s.tx.len - s.tx.sent))
      rsp := some ⟨0x00, 0x101, [.upperSendSuccess]⟩ } :=
  exec_of_tlEmit rfl hs (((sendSuccess_cases s).resolve_right fun h => h.1 ht).2.trans (segmentDone_last hlast))

theorem exec_tlSucc_next {sent : Nat} (hs : s.halt = false) (ht : s.tls = .sending)
    (hsent : sent = s.tx.sent + min s.cfg.segPayload (s.tx.len - s.tx.sent)) (hmore : sent < s.tx.len)
    (hbuf : s.tx.base.toNat + s.tx.len ≤ s.cfg.bufSize) :
    exec .tlSucc s = .next { s with
      tx := s.tx.advanced (min s.cfg.segPayload (s.tx.len - s.tx.sent))
      rsp := some ⟨0x00, 0x102, [.lowerSend (tpdu s.buf (s.tx.base.toNat + sent)
        (min s.cfg.segPayload (s.tx.len - sent)) (decide (s.tx.len - sent ≤ s.cfg.segPayload))
        (decide (sent = 0)) (nextSeq s.tx.seq).toNat)]⟩ } := by
  have hfin : decide (s.tx.len - sent ≤ s.cfg.segPayload) = decide (sent + segmentSize s s.tx.len sent = s.tx.len) :=
    decide_eq_decide.2 (by rw [segmentSize]; omega)
  have hdone : segmentDone s = .ok ({ s with tx := s.tx.advanced (segmentSize s s.tx.len s.tx.sent) }.tlEmit
      (.lowerSend (segmentHeader (decide (sent + segmentSize s s.tx.len sent = s.tx.len)) (decide (sent = 0))
        (nextSeq s.tx.seq) :: s.buf.readBytes (s.tx.base.toNat + sent) (segmentSize s s.tx.len sent)))) := by
    have hsize : sent = s.tx.sent + segmentSize s s.tx.len s.tx.sent := hsent
    rw [segmentDone_more (hsize ▸ hmore), ← hsize, segment_in _ (Nat.le_of_lt hmore) hbuf]
    rfl
  have hanswer : tlAnswer s.tls true = 0x102 := by rw [ht]; rfl
  rw [hfin, tpdu_eq, ← hanswer]
  exact exec_of_tlEmit rfl hs (((sendSuccess_cases s).resolve_right fun h => h.1 ht).2.trans hdone)

end

/-- Settles O31: the length check, the state and the range check in this order (`send_cases`, `acceptSend_eq`). -/
theorem sendEmitsTheFirstSegment : Obligations.SendEmitsTheFirstSegment := by
  refine ⟨decode_of_noArg .tlSend decode_tlSend (by decide), fun addr len s hs =>
    ⟨fun hlen => ?length, fun hpos hfrag ht => ?ignored, fun hpos hfrag ht hbuf => ?outside, exec_tlSend_accepted hs⟩⟩
  case length =>
    have hsend : send addr len s = .error ⟨.argRange, len⟩ := if_pos hlen
    exact raises_of_error (i := .tlSend addr len) (r := ⟨.argRange, len⟩) rfl hs hsend
  case ignored => exact answers_of_tlIgnored rfl hs (send_ignored (length_accepted hpos hfrag) ht)
  case outside =>
    have haccept : acceptSend addr len.toNat s = .error (bufRange addr.toNat) :=
      (acceptSend_eq ..).trans (if_neg (Nat.not_le_of_lt hbuf))
    exact raises_of_bufRange rfl hs ((send_ready (length_accepted hpos hfrag) ht).trans haccept)

/-- Settles O32: `segmentDone_more` and `segmentDone_last` are the two ways on in Sending. -/
theorem successSendsTheNextSegmentOrEnds : Obligations.SuccessSendsTheNextSegmentOrEnds := by
  refine ⟨decode_of_noArg (fun _ _ => .tlSucc) decode_tlSucc (by decide), fun s hs => ⟨fun ht => ?ignored, ?sending⟩⟩
  case ignored => exact answers_of_tlIgnored rfl hs ((sendSuccess_cases s).resolve_left fun h => ht h.1).2
  case sending =>
    intro sent hsent ht seq hseq
    obtain rfl : seq = nextSeq s.tx.seq := eq_nextSeq_iff.2 hseq
    refine ⟨fun hlast => ?_, fun hmore hbuf => ?_⟩
    · rw [exec_tlSucc_last hs ht (hsent ▸ hlast), hsent]
      rfl
    · rw [exec_tlSucc_next hs ht hsent hmore hbuf, hsent]
      rfl

/-! Receive (R240 to R242) -/

section
variable {s : State} {fin : Bool} {seq : Seq} {base : Nat} {p : List Byte}

theorem appendSegment_overflow (h : s.cfg.fragSize < base + p.length) :
    appendSegment s fin seq base p = { s with rx := s.rx.stop }.tlHandled := if_pos h

theorem appendSegment_more (h : base + p.length ≤ s.cfg.fragSize) :
    appendSegment s false seq base p =
      { s with rx := ⟨s.rx.buf.writeBytes base p, base + p.length, seq, true⟩ }.tlHandled := if_neg (Nat.not_lt.2 h)

theorem appendSegment_last (h : base + p.length ≤ s.cfg.fragSize) :
    appendSegment s true seq base p =
      { s with rx := ⟨s.rx.buf.writeBytes base p, 0, seq, false⟩ }.tlEmit
        (.upperReceive ((s.rx.buf.writeBytes base p).readBytes 0 (base + p.length))) := if_neg (Nat.not_lt.2 h)

end

section
variable {s : State} {hdr : Byte} {p : List Byte}

theorem reassemble_first (h6 : hdr.getLsbD 6 = true) :
    reassemble hdr p s = appendSegment s (hdr.getLsbD 7) (hdr.extractLsb' 0 6) 0 p := if_pos h6

theorem reassemble_idle (h6 : hdr.getLsbD 6 = false) (ha : s.rx.active = false) :
    reassemble hdr p s = s.tlHandled := (if_neg (ne_true_of_eq_false h6)).trans (if_pos ha)

theorem reassemble_gap (h6 : hdr.getLsbD 6 = false) (ha : s.rx.active = true)
    (hq : hdr.extractLsb' 0 6 ≠ nextSeq s.rx.seq) : reassemble hdr p s = { s with rx := s.rx.stop }.tlHandled :=
  (if_neg (ne_true_of_eq_false h6)).trans ((if_neg (ne_false_of_eq_true ha)).trans (if_pos hq))

theorem reassemble_next (h6 : hdr.getLsbD 6 = false) (ha : s.rx.active = true)
    (hq : hdr.extractLsb' 0 6 = nextSeq s.rx.seq) :
    reassemble hdr p s = appendSegment s (hdr.getLsbD 7) (hdr.extractLsb' 0 6) s.rx.len p :=
  (if_neg (ne_true_of_eq_false h6)).trans ((if_neg (ne_false_of_eq_true ha)).trans (if_neg (not_not.2 hq)))

end

theorem eq_sequenceField_iff {hdr : Byte} {seq : Seq} : seq = hdr.extractLsb' 0 6 ↔ seq.toNat = hdr.toNat % 64 := by
  rw [← BitVec.toNat_inj, BitVec.extractLsb'_toNat]
  rfl

/-- Settles O34: `receive_closed`, `receive_short` and `receive_out` end before the procedure, the lemmas about
`reassemble` are its ways out, and those about `appendSegment` the ends of an append. -/
theorem receiveReassembles : Obligations.ReceiveReassembles := by
  refine ⟨decode_of_noArg .tlRecv decode_tlRecv (by decide), fun addr len s hs =>
    ⟨fun ht => ?closed, fun ht hlen => ?short, fun ht hlen hbuf => ?outside, fun ht hlen hbuf => ?inside⟩⟩
  case closed =>
    have hanswer : Answers (.tlRecv addr len) s (tlAnswer s.tls false) :=
      answers_of_tlIgnored rfl hs (receive_closed ht)
    rwa [ht] at hanswer
  case short => exact answers_of_tlHandled rfl hs (receive_short ht hlen)
  case outside => exact raises_of_bufRange rfl hs (receive_out ht hlen hbuf)
  case inside =>
    intro hdr hhdr seq hseq n hn dropped accepted
    obtain rfl : seq = hdr.extractLsb' 0 6 := eq_sequenceField_iff.2 hseq
    let p := s.buf.readBytes (addr.toNat + 1) n
    have hp : p.length = n := Memory.length_readBytes ..
    have hexec {t : State} (h : reassemble hdr p s = t) : exec (.tlRecv addr len) s = .next t := by
      subst hhdr hn
      exact exec_of_ok rfl hs ((receive_in ht hlen hbuf).trans (congrArg _ h))
    have hdropped (h : reassemble hdr p s = { s with rx := s.rx.stop }.tlHandled) : dropped := by
      rw [State.tlHandled_eq] at h
      exact hexec h
    have haccepted (base : Nat)
        (h : reassemble hdr p s = appendSegment s (hdr.getLsbD 7) (hdr.extractLsb' 0 6) base p) : accepted base := by
      refine ⟨fun hover => hdropped (h.trans (appendSegment_overflow (by omega))), fun hfit =>
        ⟨s.rx.buf.writeBytes base p, fun k hk => ?stored, fun a ha => ?kept, fun h7 => ?more, fun h7 => ?last⟩⟩
      case stored => rw [Memory.read_writeBytes_in _ _ _ _ (by omega), Memory.getD_readBytes _ _ _ _ hk]
      case kept => exact Memory.read_writeBytes_out _ _ _ _ (by omega)
      case more =>
        rw [h7, appendSegment_more (by omega), State.tlHandled_eq, hp] at h
        exact hexec h
      case last =>
        rw [h7, appendSegment_last (by omega), State.tlEmit, tlResult_eq_tlAnswer, Memory.readBytes_eq_map, hp] at h
        simp only [Nat.zero_add] at h
        exact hexec h
    exact ⟨fun h6 => haccepted 0 (reassemble_first h6),
      fun h6 ha => (hexec (reassemble_idle h6 ha)).trans (by rw [State.tlHandled_eq]),
      fun h6 ha hq => hdropped (reassemble_gap h6 ha (mt eq_nextSeq_iff.1 hq)),
      fun h6 ha hq => haccepted s.rx.len (reassemble_next h6 ha (eq_nextSeq_iff.2 hq))⟩

end Sys2Proof.Machine
end

section
/-! PROOFS about the two laws of the transport unit (42_transport.md R244, R245): runs of several commands, the segments
of an APDU, and what is outstanding or awaited between two of them. -/

namespace Sys2Proof.Machine

open Sys2Proof Sys2Proof.Claims

/-! Runs -/

/-- `f` takes the inputs one after the other, from the first state to the last, and these are the events of each. -/
inductive Runs {α : Type} (f : α → State → Host.Outcome State Fault Refusal) :
    List α → State → List (List Event) → State → Prop
  | nil (s : State) : Runs f [] s [] s
  | cons {a : α} {as : List α} {s t u : State} {es : List (List Event)} (head : f a s = .next t)
      (tail : Runs f as t es u) : Runs f (a :: as) s (t.events :: es) u

section
variable {α : Type} {f : α → State → Host.Outcome State Fault Refusal} {a : α} {as bs : List α} {s t u : State}
  {es es' : List (List Event)}

theorem Runs.append (h : Runs f as s es t) (h' : Runs f bs t es' u) : Runs f (as ++ bs) s (es ++ es') u := by
  induction h with
  | nil => exact h'
  | cons head _ ih => exact .cons head (ih h')

theorem Runs.cons_of_events {e : List Event} (head : f a s = .next t) (he : t.events = e) (tail : Runs f as t es u) :
    Runs f (a :: as) s (e :: es) u := he ▸ .cons head tail

theorem Runs.single {e : List Event} (head : f a s = .next t) (he : t.events = e) : Runs f [a] s [e] t :=
  .cons_of_events head he (.nil t)

/-- The lists of states that the statements speak of (`statesAfter`, `statesAfterDelivery`) show a run. -/
theorem Runs.states {states : List α → State → List State} (hnil : ∀ s, states [] s = [])
    (hcons : ∀ {a as s t}, f a s = .next t → states (a :: as) s = t :: states as t) (h : Runs f as s es u) :
    (states as s).map (fun t => t.events) = es ∧ (s :: states as s).getLast? = some u := by
  induction h with
  | nil s => rw [hnil]; exact ⟨rfl, rfl⟩
  | cons head _ ih =>
    obtain ⟨hevents, hlast⟩ := ih
    rw [hcons head, List.map_cons, hevents, List.getLast?_cons_cons]
    exact ⟨rfl, hlast⟩

theorem Runs.states_of_ne_nil {states : List α → State → List State} (hnil : ∀ s, states [] s = [])
    (hcons : ∀ {a as s t}, f a s = .next t → states (a :: as) s = t :: states as t) (hes : es ≠ [])
    (h : Runs f as s es u) :
    (states as s).map (fun t => t.events) = es ∧ (states as s).getLast? = some u := by
  refine ⟨(h.states hnil hcons).1, ?_⟩
  cases h with
  | nil => exact absurd rfl hes
  | cons head tail =>
    rw [hcons head]
    exact (tail.states hnil hcons).2

end

theorem statesAfter_cons {i : Instr} {is : List Instr} {s t : State} (h : exec i s = .next t) :
    statesAfter (i :: is) s = t :: statesAfter is t := by rw [statesAfter, h]

theorem statesAfterDelivery_cons {addr : Word} {b : List Byte} {bs : List (List Byte)} {s t : State}
    (h : deliver addr b s = .next t) :
    statesAfterDelivery addr (b :: bs) s = t :: statesAfterDelivery addr bs t := by rw [statesAfterDelivery, h]

theorem Runs.exec_states {is : List Instr} {s u : State} {es : List (List Event)} (h : Runs exec is s es u)
    (hes : es ≠ []) :
    (statesAfter is s).map (fun t => t.events) = es ∧ (statesAfter is s).getLast? = some u :=
  h.states_of_ne_nil (fun _ => rfl) statesAfter_cons hes

theorem Runs.deliver_states {addr : Word} {bs : List (List Byte)} {s u : State} {es : List (List Event)}
    (h : Runs (deliver addr) bs s es u) (hes : es ≠ []) :
    (statesAfterDelivery addr bs s).map (fun t => t.events) = es ∧ (statesAfterDelivery addr bs s).getLast? = some u :=
  h.states_of_ne_nil (fun _ => rfl) statesAfterDelivery_cons hes

/-! The segments of an APDU -/

/-- An APDU of `len` bytes has a segment `k` just when it has a byte for it. -/
theorem lt_segmentCount_iff {size len k : Nat} (hsize : 1 ≤ size) :
    k < (len + size - 1) / size ↔ k * size < len := by
  rw [← Nat.succ_le_iff, Nat.le_div_iff_mul_le hsize, Nat.succ_mul]
  omega

theorem apduSegment_eq_cons (size seq : Nat) (apdu : List Byte) (k : Nat) :
    apduSegment size seq apdu k =
      segmentHeader (decide (apdu.length ≤ (k + 1) * size)) (decide (k = 0)) (BitVec.ofNat 6 (seq + k)) ::
        (apdu.drop (k * size)).take size := by
  simp only [apduSegment, segmentHeader_eq_ofNat, BitVec.toNat_ofNat, decide_eq_true_eq]

theorem Memory.take_drop_readBytes (m : Memory) (a n i k : Nat) :
    ((m.readBytes a n).drop i).take k = m.readBytes (a + i) (min k (n - i)) := by
  apply List.ext_getElem
  · simp
  · intro j _ _
    simp [Memory.readBytes_eq_map, Nat.add_assoc]

/-- The segments of an APDU that lies in a memory are the TPDUs read from there. -/
theorem apduSegment_readBytes {size len k : Nat} (m : Memory) (a seq : Nat) :
    apduSegment size seq (m.readBytes a len) k =
      tpdu m (a + k * size) (min size (len - k * size)) (decide (len - k * size ≤ size)) (decide (k = 0))
        ((seq + k) % 64) := by
  have hfin : decide (len ≤ (k + 1) * size) = decide (len - k * size ≤ size) :=
    decide_eq_decide.2 (by rw [Nat.succ_mul]; omega)
  rw [apduSegment_eq_cons, Memory.length_readBytes, Memory.take_drop_readBytes, hfin, ← tpdu_eq, BitVec.toNat_ofNat]

/-! Segmentation (R244) -/

/-- Of an APDU of `len` bytes at `addr` that was sent from the state `s`, segment `k` is outstanding. -/
structure Outstanding (s : State) (addr : Word) (len k : Nat) (t : State) : Prop where
  halt : t.halt = false
  tls : t.tls = .sending
  cfg : t.cfg = s.cfg
  buf : t.buf = s.buf
  base : t.tx.base = addr
  len_eq : t.tx.len = len
  sent : t.tx.sent = k * s.cfg.segPayload
  seq : t.tx.seq.toNat = (s.tx.seq.toNat + k) % 64

section
variable {s t : State} {addr : Word} {len k : Nat}

theorem tlSend_outstanding {len : DWord} (hs : s.halt = false) (ht : s.tls = .ready) (hpos : 1 ≤ len.toNat)
    (hfrag : len.toNat ≤ s.cfg.fragSize) (hbuf : addr.toNat + len.toNat ≤ s.cfg.bufSize) :
    ∃ t, exec (.tlSend addr len) s = .next t ∧ Outstanding s addr len.toNat 0 t ∧ t.events =
      [.lowerSend (apduSegment s.cfg.segPayload s.tx.seq.toNat (s.buf.readBytes addr.toNat len.toNat) 0)] := by
  have hseq : s.tx.seq.toNat = (s.tx.seq.toNat + 0) % 64 := (Nat.mod_eq_of_lt s.tx.seq.isLt).symm
  refine ⟨_, exec_tlSend_accepted hs hpos hfrag ht hbuf,
    ⟨hs, rfl, rfl, rfl, rfl, rfl, (Nat.zero_mul _).symm, hseq⟩, ?_⟩
  rw [apduSegment_readBytes, ← hseq, Nat.zero_mul]
  rfl

theorem Outstanding.nextSeq_toNat (h : Outstanding s addr len k t) :
    (nextSeq t.tx.seq).toNat = (s.tx.seq.toNat + (k + 1)) % 64 := by
  rw [Machine.nextSeq_toNat, h.seq, Nat.mod_add_mod, Nat.add_assoc]

theorem Outstanding.tlSucc_next (h : Outstanding s addr len k t) (hmore : (k + 1) * s.cfg.segPayload < len)
    (hbuf : addr.toNat + len ≤ s.cfg.bufSize) (hpos : 1 ≤ s.cfg.segPayload) :
    ∃ u, exec .tlSucc t = .next u ∧ Outstanding s addr len (k + 1) u ∧ u.events =
      [.lowerSend (apduSegment s.cfg.segPayload s.tx.seq.toNat (s.buf.readBytes addr.toNat len) (k + 1))] := by
  have hseq := h.nextSeq_toNat
  obtain ⟨halt, tls, cfg, buf, rfl, rfl, sent, -⟩ := h
  rw [← cfg] at sent hmore hbuf hpos ⊢
  have hsize : min t.cfg.segPayload (t.tx.len - t.tx.sent) = t.cfg.segPayload := by
    rw [sent]
    rw [Nat.succ_mul] at hmore
    omega
  have hsent : (k + 1) * t.cfg.segPayload = t.tx.sent + min t.cfg.segPayload (t.tx.len - t.tx.sent) := by
    rw [hsize, sent, Nat.succ_mul]
  have hfir : decide (k + 1 = 0) = decide ((k + 1) * t.cfg.segPayload = 0) :=
    decide_eq_decide.2 (by rw [Nat.mul_eq_zero]; omega)
  refine ⟨_, exec_tlSucc_next halt tls hsent hmore hbuf,
    ⟨halt, tls, cfg, buf, rfl, rfl, cfg ▸ hsent.symm, hseq⟩, ?_⟩
  rw [apduSegment_readBytes, ← hseq, hfir, ← buf]
  rfl

theorem Outstanding.tlSucc_last (h : Outstanding s addr len k t) (hlast : len ≤ (k + 1) * s.cfg.segPayload) :
    ∃ u, exec .tlSucc t = .next u ∧ u.tls = .ready ∧ u.tx.seq.toNat = (s.tx.seq.toNat + (k + 1)) % 64 ∧
      u.events = [.upperSendSuccess] := by
  have hdone : t.tx.len ≤ t.tx.sent + min t.cfg.segPayload (t.tx.len - t.tx.sent) := by
    rw [h.cfg, h.len_eq, h.sent]
    rw [Nat.succ_mul] at hlast
    omega
  exact ⟨_, exec_tlSucc_last h.halt h.tls hdone, rfl, h.nextSeq_toNat, rfl⟩

/-- With `j` segments left after the outstanding one, `j + 1` completions end the send. -/
theorem Outstanding.runs_tlSucc (hbuf : addr.toNat + len ≤ s.cfg.bufSize) (hpos : 1 ≤ s.cfg.segPayload) (j : Nat)
    (h : Outstanding s addr len k t) (hlast : len ≤ (k + j + 1) * s.cfg.segPayload)
    (hmore : (k + j) * s.cfg.segPayload < len) :
    ∃ u, Runs exec (List.replicate (j + 1) .tlSucc) t
        ((List.range' (k + 1) j).map (fun i => [.lowerSend (apduSegment s.cfg.segPayload s.tx.seq.toNat
          (s.buf.readBytes addr.toNat len) i)]) ++ [[.upperSendSuccess]]) u ∧
      u.tls = .ready ∧ u.tx.seq.toNat = (s.tx.seq.toNat + (k + j + 1)) % 64 := by
  induction j generalizing k t with
  | zero =>
    obtain ⟨u, hexec, htls, hseq, hevents⟩ := h.tlSucc_last hlast
    exact ⟨u, .single hexec hevents, htls, hseq⟩
  | succ j ih =>
    have hkj : k + (j + 1) = k + 1 + j := by omega
    rw [hkj] at hlast hmore ⊢
    have hnext : (k + 1) * s.cfg.segPayload < len :=
      (Nat.mul_le_mul_right _ (Nat.le_add_right (k + 1) j)).trans_lt hmore
    obtain ⟨v, hexec, hout, hevents⟩ := h.tlSucc_next hnext hbuf hpos
    obtain ⟨u, hruns, hready⟩ := ih hout hlast hmore
    exact ⟨u, .cons_of_events hexec hevents hruns, hready⟩

end

/-- Settles O35: the first segment is outstanding after `TL.SEND`, each `TL.SUCC` but the last puts the next one in its
place (`Outstanding.runs_tlSucc`). -/
theorem segmentationLaw : Obligations.SegmentationLaw := by
  intro s addr len hs ht hsize hpos hfrag hbuf count apdu states
  have happdu : apdu = s.buf.readBytes addr.toNat len.toNat := (Memory.readBytes_eq_map ..).symm
  obtain ⟨j, hj⟩ : ∃ j, count = j + 1 := Nat.exists_eq_add_one.2 ((lt_segmentCount_iff hsize).2 (by omega))
  have hmore : j * s.cfg.segPayload < len.toNat := (lt_segmentCount_iff hsize).1 (by omega)
  have hlast : len.toNat ≤ (j + 1) * s.cfg.segPayload := Nat.not_lt.1 (mt (lt_segmentCount_iff hsize).2 (by omega))
  obtain ⟨t, hsend, hout, hevents⟩ := tlSend_outstanding hs ht hpos hfrag hbuf
  rw [← Nat.zero_add j] at hmore hlast
  obtain ⟨u, hruns, htls, hseq⟩ := hout.runs_tlSucc hbuf hsize j hlast hmore
  have hsegments : apduSegments s.cfg.segPayload s.tx.seq.toNat apdu =
      (List.range' 0 (j + 1)).map (apduSegment s.cfg.segPayload s.tx.seq.toNat apdu) := by
    rw [← List.range_eq_range', ← hj, apduSegments, happdu, Memory.length_readBytes]
  obtain ⟨hall, hend⟩ := (Runs.cons_of_events hsend hevents hruns).exec_states (List.cons_ne_nil _ _)
  rw [hsegments, happdu, List.map_map]
  rw [← hj] at hall hend
  rw [Nat.zero_add, ← hj] at hseq
  exact ⟨hall, u, hend, htls, hseq⟩

end Sys2Proof.Machine
end

section
/-! PROOFS about reassembly (42_transport.md R245): a TPDU that the host puts into `BUF` is the one the receiver sees,
and between two segments the receiver either awaits the next or is idle. -/

namespace Sys2Proof.Machine

open Sys2Proof Sys2Proof.Claims

/-! The fields of a header byte (30_encoding.md R104) -/

theorem segmentHeader_fin (fin fir : Bool) (seq : Seq) : (segmentHeader fin fir seq).getLsbD 7 = fin := by
  rw [segmentHeader, BitVec.getLsbD_append, BitVec.getLsbD_append]
  cases fin <;> rfl

theorem segmentHeader_fir (fin fir : Bool) (seq : Seq) : (segmentHeader fin fir seq).getLsbD 6 = fir := by
  rw [segmentHeader, BitVec.getLsbD_append, BitVec.getLsbD_append]
  cases fir <;> rfl

theorem segmentHeader_seq (fin fir : Bool) (seq : Seq) : (segmentHeader fin fir seq).extractLsb' 0 6 = seq :=
  BitVec.extractLsb'_append_eq_right

/-! One delivery -/

/-- The transport unit takes TPDUs under the parameters `c`. -/
structure Listening (c : Config) (t : State) : Prop where
  halt : t.halt = false
  tls : t.tls ≠ .closed
  cfg : t.cfg = c

theorem deliver_eq {c : Config} {addr : Word} {hdr : Byte} {p : List Byte} {t : State} (h : Listening c t)
    (hp : 1 ≤ p.length) (hlen : p.length + 1 < 2 ^ 64) (hbuf : addr.toNat + (p.length + 1) ≤ c.bufSize) :
    deliver addr (hdr :: p) t =
      .next (reassemble hdr p { t with buf := t.buf.writeBytes addr.toNat (hdr :: p) }) := by
  obtain ⟨hs, ht, rfl⟩ := h
  have hnumber : (BitVec.ofNat 64 (hdr :: p).length).toNat = p.length + 1 := BitVec.toNat_ofNat .. |>.trans
    (Nat.mod_eq_of_lt hlen)
  have hread : (t.buf.writeBytes addr.toNat (hdr :: p)).read addr.toNat = hdr ∧
      (t.buf.writeBytes addr.toNat (hdr :: p)).readBytes (addr.toNat + 1) p.length = p :=
    List.cons_eq_cons.1 (t.buf.readBytes_writeBytes addr.toNat (hdr :: p))
  have hreceive := receive_in (s := { t with buf := t.buf.writeBytes addr.toNat (hdr :: p) }) ht
    (by rw [hnumber]; omega) (by rw [hnumber]; exact hbuf)
  rw [hnumber, Nat.add_sub_cancel, hread.1, hread.2] at hreceive
  rw [deliver, hostStore_eq, if_pos (.inr hbuf)]
  exact exec_of_ok rfl hs hreceive

/-- An APDU that is delivered at `addr` in segments of at most `size` bytes: each fits into `BUF`, all fit into
`RX_BUF`. -/
structure Deliverable (c : Config) (addr : Word) (size : Nat) (apdu : List Byte) : Prop where
  size_pos : 1 ≤ size
  size_lt : size < 2 ^ 32
  fits_buf : addr.toNat + size + 1 ≤ c.bufSize
  fits_rxBuf : apdu.length ≤ c.fragSize

section
variable {c : Config} {addr : Word} {size seq : Nat} {apdu : List Byte} {k : Nat} {t : State}

theorem length_payload (size : Nat) (apdu : List Byte) (k : Nat) :
    ((apdu.drop (k * size)).take size).length = min size (apdu.length - k * size) := by
  rw [List.length_take, List.length_drop]

theorem Deliverable.deliver_segment (hd : Deliverable c addr size apdu) (h : Listening c t)
    (hk : k * size < apdu.length) : ∃ m, deliver addr (apduSegment size seq apdu k) t =
      .next (reassemble
        (segmentHeader (decide (apdu.length ≤ (k + 1) * size)) (decide (k = 0)) (BitVec.ofNat 6 (seq + k)))
        ((apdu.drop (k * size)).take size) { t with buf := m }) := by
  obtain ⟨hpos, hlt, hbuf, -⟩ := hd
  have hlen := length_payload size apdu k
  rw [apduSegment_eq_cons]
  exact ⟨_, deliver_eq h (by omega) (by omega) (by omega)⟩

/-! A complete run -/

/-- All segments before `k` have arrived, and the receiver takes segment `k` next. -/
structure Awaits (c : Config) (size seq : Nat) (apdu : List Byte) (k : Nat) (t : State) : Prop where
  listening : Listening c t
  held : t.rx.buf.readBytes 0 (k * size) = apdu.take (k * size)
  started : k ≠ 0 → t.rx.active = true ∧ t.rx.len = k * size ∧ nextSeq t.rx.seq = BitVec.ofNat 6 (seq + k)

theorem Memory.readBytes_writeBytes_after (m : Memory) (n : Nat) (p : List Byte) :
    (m.writeBytes n p).readBytes 0 (n + p.length) = m.readBytes 0 n ++ p := by
  rw [Memory.readBytes_add, Memory.readBytes_writeBytes_below _ _ _ _ _ (Nat.zero_add n).le, Nat.zero_add,
    Memory.readBytes_writeBytes]

theorem Awaits.held_append (h : Awaits c size seq apdu k t) :
    (t.rx.buf.writeBytes (k * size) ((apdu.drop (k * size)).take size)).readBytes 0
      (k * size + ((apdu.drop (k * size)).take size).length) = apdu.take ((k + 1) * size) := by
  rw [Memory.readBytes_writeBytes_after, h.held, Nat.succ_mul, List.take_add]

theorem Awaits.reassemble_eq (h : Awaits c size seq apdu k t) (fin : Bool) (p : List Byte) (m : Memory) :
    reassemble (segmentHeader fin (decide (k = 0)) (BitVec.ofNat 6 (seq + k))) p { t with buf := m } =
      appendSegment { t with buf := m } fin (BitVec.ofNat 6 (seq + k)) (k * size) p := by
  by_cases hk : k = 0
  · rw [reassemble_first (by rw [segmentHeader_fir, hk]; rfl), segmentHeader_fin, segmentHeader_seq, hk, Nat.zero_mul]
  · obtain ⟨hactive, hlen, hseq⟩ := h.started hk
    have hfir := (segmentHeader_fir fin (decide (k = 0)) (BitVec.ofNat 6 (seq + k))).trans (decide_eq_false hk)
    have hnext := (segmentHeader_seq fin (decide (k = 0)) (BitVec.ofNat 6 (seq + k))).trans hseq.symm
    rw [reassemble_next (s := { t with buf := m }) hfir hactive hnext, segmentHeader_fin, segmentHeader_seq]
    exact congrArg (fun n => appendSegment _ _ _ n _) hlen

theorem nextSeq_ofNat (n : Nat) : nextSeq (BitVec.ofNat 6 n) = BitVec.ofNat 6 (n + 1) := (BitVec.ofNat_add n 1).symm

theorem Awaits.deliver_middle (h : Awaits c size seq apdu k t) (hd : Deliverable c addr size apdu)
    (hmore : (k + 1) * size < apdu.length) :
    ∃ u, deliver addr (apduSegment size seq apdu k) t = .next u ∧ Awaits c size seq apdu (k + 1) u ∧ u.events = [] := by
  have hsize : (k + 1) * size = k * size + ((apdu.drop (k * size)).take size).length := by
    rw [length_payload]
    rw [Nat.succ_mul] at hmore ⊢
    omega
  have hfits := hd.fits_rxBuf
  obtain ⟨m, hdeliver⟩ := hd.deliver_segment h.listening (k := k) (seq := seq) (by rw [Nat.succ_mul] at hmore; omega)
  have hheld := h.held_append
  rw [h.reassemble_eq, decide_eq_false (Nat.not_le_of_lt hmore)] at hdeliver
  obtain ⟨⟨hs, ht, rfl⟩, -, -⟩ := h
  rw [appendSegment_more (by show _ ≤ t.cfg.fragSize; omega)] at hdeliver
  refine ⟨_, hdeliver, ⟨⟨hs, ht, rfl⟩, ?_, fun _ => ⟨rfl, hsize.symm, nextSeq_ofNat _⟩⟩, rfl⟩
  rw [← hheld, ← hsize]
  rfl

theorem Awaits.deliver_last (h : Awaits c size seq apdu k t) (hd : Deliverable c addr size apdu)
    (hk : k * size < apdu.length) (hlast : apdu.length ≤ (k + 1) * size) :
    ∃ u, deliver addr (apduSegment size seq apdu k) t = .next u ∧ u.rx.active = false ∧
      u.events = [.upperReceive apdu] := by
  have hfits := hd.fits_rxBuf
  have hsize : k * size + ((apdu.drop (k * size)).take size).length ≤ apdu.length := by
    rw [length_payload]
    omega
  obtain ⟨m, hdeliver⟩ := hd.deliver_segment h.listening (seq := seq) hk
  have hheld := h.held_append
  rw [List.take_of_length_le hlast] at hheld
  rw [h.reassemble_eq, decide_eq_true hlast] at hdeliver
  obtain ⟨⟨hs, ht, rfl⟩, -, -⟩ := h
  rw [appendSegment_last (by show _ ≤ t.cfg.fragSize; omega), hheld] at hdeliver
  exact ⟨_, hdeliver, rfl, rfl⟩

theorem Awaits.runs (hd : Deliverable c addr size apdu) (j : Nat) (h : Awaits c size seq apdu k t)
    (hmore : (k + j) * size < apdu.length) :
    ∃ u, Runs (deliver addr) ((List.range' k j).map (apduSegment size seq apdu)) t (List.replicate j []) u ∧
      Awaits c size seq apdu (k + j) u := by
  induction j generalizing k t with
  | zero => exact ⟨t, .nil t, h⟩
  | succ j ih =>
    have hkj : k + (j + 1) = k + 1 + j := by omega
    rw [hkj] at hmore ⊢
    have hnext : (k + 1) * size < apdu.length :=
      (Nat.mul_le_mul_right _ (Nat.le_add_right (k + 1) j)).trans_lt hmore
    obtain ⟨v, hdeliver, hawaits, hevents⟩ := h.deliver_middle hd hnext
    obtain ⟨u, hruns, hend⟩ := ih hawaits hmore
    exact ⟨u, .cons_of_events hdeliver hevents hruns, hend⟩

theorem Awaits.runs_complete {j : Nat} (h : Awaits c size seq apdu 0 t) (hd : Deliverable c addr size apdu)
    (hmore : j * size < apdu.length) (hlast : apdu.length ≤ (j + 1) * size) :
    ∃ u, Runs (deliver addr) ((List.range' 0 (j + 1)).map (apduSegment size seq apdu)) t
      (List.replicate j [] ++ [[.upperReceive apdu]]) u ∧ u.rx.active = false := by
  rw [← Nat.zero_add j] at hmore hlast
  obtain ⟨v, hruns, hawaits⟩ := h.runs hd j hmore
  obtain ⟨u, hdeliver, hinactive, hevents⟩ := hawaits.deliver_last hd hmore hlast
  rw [List.range'_1_concat, List.map_append]
  exact ⟨u, hruns.append (.single hdeliver hevents), hinactive⟩

/-! A gap -/

theorem eraseIdx_map_range' {α : Type} (f : Nat → α) (k i : Nat) :
    ((List.range' 0 (k + (i + 2))).map f).eraseIdx k =
      (List.range' 0 k).map f ++ f (k + 1) :: (List.range' (k + 2) i).map f := by
  have hlength : ((List.range' 0 k).map f).length = k := by simp
  rw [← List.range'_append_1, Nat.zero_add, List.map_append, List.eraseIdx_append_of_length_le hlength.le, hlength,
    Nat.sub_self]
  rfl

/-- No reassembly is in progress. -/
structure Idle (c : Config) (t : State) : Prop where
  listening : Listening c t
  inactive : t.rx.active = false

/-- The segment after the awaited one stops the receiver. -/
theorem Awaits.deliver_gap (h : Awaits c size seq apdu k t) (hd : Deliverable c addr size apdu) (hk : k ≠ 0)
    (hmore : (k + 1) * size < apdu.length) :
    ∃ u, deliver addr (apduSegment size seq apdu (k + 1)) t = .next u ∧ Idle c u ∧ u.events = [] := by
  obtain ⟨hactive, -, hseq⟩ := h.started hk
  obtain ⟨m, hdeliver⟩ := hd.deliver_segment h.listening (seq := seq) hmore
  have hgap : (BitVec.ofNat 6 (seq + (k + 1)) : Seq) ≠ nextSeq t.rx.seq := by
    rw [hseq, ne_eq, ← BitVec.toNat_inj, BitVec.toNat_ofNat, BitVec.toNat_ofNat]
    omega
  rw [reassemble_gap (s := { t with buf := m })
    ((segmentHeader_fir ..).trans (decide_eq_false (Nat.succ_ne_zero k))) hactive
    (by rw [segmentHeader_seq]; exact hgap)] at hdeliver
  obtain ⟨⟨hs, ht, rfl⟩, -, -⟩ := h
  exact ⟨_, hdeliver, ⟨⟨hs, ht, rfl⟩, rfl⟩, rfl⟩

theorem Idle.deliver_ignored (h : Idle c t) (hd : Deliverable c addr size apdu) (hk : k ≠ 0)
    (hmore : k * size < apdu.length) :
    ∃ u, deliver addr (apduSegment size seq apdu k) t = .next u ∧ Idle c u ∧ u.events = [] := by
  obtain ⟨m, hdeliver⟩ := hd.deliver_segment h.listening (seq := seq) hmore
  obtain ⟨⟨hs, ht, rfl⟩, hinactive⟩ := h
  rw [reassemble_idle (s := { t with buf := m }) ((segmentHeader_fir ..).trans (decide_eq_false hk)) hinactive]
    at hdeliver
  exact ⟨_, hdeliver, ⟨⟨hs, ht, rfl⟩, hinactive⟩, rfl⟩

theorem Idle.runs (hd : Deliverable c addr size apdu) (j : Nat) (h : Idle c t) (hk : k ≠ 0)
    (hmore : ∀ i < k + j, i * size < apdu.length) :
    ∃ u, Runs (deliver addr) ((List.range' k j).map (apduSegment size seq apdu)) t (List.replicate j []) u ∧
      Idle c u := by
  induction j generalizing k t with
  | zero => exact ⟨t, .nil t, h⟩
  | succ j ih =>
    obtain ⟨v, hdeliver, hidle, hevents⟩ := h.deliver_ignored (seq := seq) hd hk (hmore k (by omega))
    obtain ⟨u, hruns, hend⟩ := ih hidle (Nat.succ_ne_zero k) fun i hi => hmore i (by omega)
    exact ⟨u, .cons_of_events hdeliver hevents hruns, hend⟩

theorem Awaits.runs_gapped {i : Nat} (h : Awaits c size seq apdu 0 t) (hd : Deliverable c addr size apdu) (hk : k ≠ 0)
    (hmore : ∀ n < k + (i + 2), n * size < apdu.length) :
    ∃ u, Runs (deliver addr) (((List.range' 0 (k + (i + 2))).map (apduSegment size seq apdu)).eraseIdx k) t
      (List.replicate (k + (i + 1)) []) u ∧ u.rx.active = false := by
  obtain ⟨v, hbefore, hawaits⟩ := h.runs hd k (hmore (0 + k) (by omega))
  rw [Nat.zero_add] at hawaits
  obtain ⟨w, hdeliver, hidle, hevents⟩ := hawaits.deliver_gap hd hk (hmore (k + 1) (by omega))
  obtain ⟨u, hafter, hend⟩ := hidle.runs (seq := seq) hd i (k := k + 2) (by omega) fun n hn => hmore n (by omega)
  rw [eraseIdx_map_range', ← List.replicate_append_replicate]
  exact ⟨u, hbefore.append (.cons_of_events hdeliver hevents hafter), hend.inactive⟩

end

/-- Settles O36: before its last segment a complete run awaits the next one (`Awaits.runs`); a gap leaves the receiver
idle, and then no later segment is a first one (`Awaits.deliver_gap`, `Idle.runs`). -/
theorem reassemblyLaw : Obligations.ReassemblyLaw := by
  intro s addr apdu size seq hs ht hinactive hpos hlt hbuf happdu hfrag segments states
  have hd : Deliverable s.cfg addr size apdu := ⟨hpos, hlt, hbuf, hfrag⟩
  have hawaits : Awaits s.cfg size seq apdu 0 s := ⟨⟨hs, ht, rfl⟩, by rw [Nat.zero_mul]; rfl, fun h => absurd rfl h⟩
  obtain ⟨j, hj⟩ : ∃ j, (apdu.length + size - 1) / size = j + 1 :=
    Nat.exists_eq_add_one.2 ((lt_segmentCount_iff hpos).2 (by omega))
  have hsegments : segments = (List.range' 0 (j + 1)).map (apduSegment size seq apdu) := by
    rw [← List.range_eq_range', ← hj]
    rfl
  have hlength : segments.length - 1 = j := by
    rw [hsegments, List.length_map, List.length_range', Nat.add_sub_cancel]
  have hmore : ∀ n < j + 1, n * size < apdu.length := fun n hn => (lt_segmentCount_iff hpos).1 (by omega)
  have hlast : apdu.length ≤ (j + 1) * size := Nat.not_lt.1 (mt (lt_segmentCount_iff hpos).2 (by omega))
  obtain ⟨u, hruns, hend⟩ := hawaits.runs_complete hd (hmore j j.lt_succ_self) hlast
  obtain ⟨hall, hlastState⟩ := hruns.deliver_states (List.append_ne_nil_of_right_ne_nil _ (List.cons_ne_nil _ _))
  rw [← hsegments] at hall hlastState
  refine ⟨by rw [hlength]; exact hall, ⟨u, hlastState, hend⟩, fun k hk hmiddle => ?_⟩
  obtain ⟨i, rfl⟩ : ∃ i, j = k + (i + 1) := ⟨j - k - 1, by omega⟩
  obtain ⟨v, hgapped, hidle⟩ := hawaits.runs_gapped hd (Nat.ne_of_gt hk) hmore
  obtain ⟨hsilent, hlastGapped⟩ := hgapped.deliver_states (List.cons_ne_nil _ _)
  rw [hlength, hsegments]
  exact ⟨hsilent, v, hlastGapped, hidle⟩

end Sys2Proof.Machine
end

section
/-! PROOFS about the object header (43_object_iterator.md R284): the command word, the qualifier table, the numbers of
the range or count field, the packed answer, and from these the rule of `OH.PARSE`. -/

namespace Sys2Proof.Machine

open Sys2Proof Sys2Proof.Claims

/-! The command word (30_encoding.md R97) -/

theorem ohParse_word (otype : ObjType) (osize : Half) (addr : Word) :
    0x60000000 ||| (if otype = .bitfield then 0x10000 else 0) ||| osize.setWidth 32 =
      (Instr.ohParse otype osize addr).word := by
  rw [← BitVec.setWidth_eq (Instr.word _), Instr.word, Instr.arg, Instr.opcode]
  simp only [BitVec.setWidth_append_eq_shiftLeft_setWidth_or, BitVec.shiftLeft_or_distrib, BitVec.or_assoc]
  cases otype <;> simp [ObjType.bit]

theorem decode_of_ohParse_word {otype : ObjType} {osize : Half} {addr : Word} {f : Frame}
    (hcw : f.cw = (Instr.ohParse otype osize addr).word) (hopa : f.opa = addr) :
    decode f = .ok (.ohParse otype osize addr) := by
  have hopc : opcodeField f.cw = 0x60 := by rw [hcw]; exact opcodeField_append _ _
  rw [decode_ohParse hopc, withArg_eq_ok, hcw, hopa, Instr.word]
  refine ⟨?reserved, ?fields⟩
  case reserved =>
    have hmask : ~~~0x01FFFF#24 = BitVec.allOnes 7 ++ 0#1 ++ 0#16 := rfl
    rw [argField_append, hmask, Instr.arg, BitVec.and_append, BitVec.and_append]
    simp
  case fields =>
    rw [extractLsb'_word _ _ (by decide), getLsbD_word _ _ (by decide), Instr.ohParse.injEq, Instr.arg]
    refine ⟨?bit, BitVec.extractLsb'_append_eq_right, rfl⟩
    case bit =>
      simp only [BitVec.getLsbD_append]
      cases otype <;> simp [ObjType.bit, ObjType.ofBit]

/-! The qualifier table (30_encoding.md R106) -/

/-- The row of the model that an entry of the statement's table stands for. -/
def qualifierRow (e : QualifierEntry) : QualRow := ⟨e.htype, e.rw, e.pfx, e.hdrlen⟩

theorem qualRow_of_mem_qualifierTable : ∀ e ∈ qualifierTable, qualRow e.qual = some (qualifierRow e) := by decide

theorem qualRow_eq_none {q : Byte} (h : ∀ e ∈ qualifierTable, e.qual ≠ q) : qualRow q = none := by
  have hlisted : ∀ x ∈ qualRows, ∃ e ∈ qualifierTable, e.qual = x.1 := by decide
  rw [Option.eq_none_iff_forall_ne_some]
  intro row hrow
  obtain ⟨e, he, hq⟩ := hlisted _ (qualRow_eq_some.1 hrow)
  exact h e he hq

/-! The numbers (00_scope.md R13) -/

theorem le_readBytes (m : Memory) (a w : Nat) : le (m.readBytes a w) = littleEndian m a w :=
  ByteOrder.little.value_readBytes m a w

/-- A number of at most four bytes fits in a 32-bit register. -/
theorem littleEndian_lt_word {w : Nat} (m : Memory) (a : Nat) (hw : w ≤ 4) : littleEndian m a w < 2 ^ 32 :=
  calc littleEndian m a w < 256 ^ w := ByteOrder.little.number_lt m a w
    _ ≤ 256 ^ 4 := Nat.pow_le_pow_right (by decide) hw

/-- The range field holds the start and, right after it, the stop (R284). -/
theorem QualRow.range_of_ranged {row : QualRow} (m : Memory) (a : Nat) (hrow : row.Shape) (ht : row.htype = .ranged)
    {start stop : Nat} (hstart : start = littleEndian m a row.rw) (hstop : stop = littleEndian m (a + row.rw) row.rw) :
    row.range (m.readBytes a (row.hdrlen - 3)) =
      if stop < start then .error ⟨.badRange, BitVec.ofNat 64 (stop * 2 ^ 32 + start)⟩
      else .ok (BitVec.ofNat 32 start, stop - start + 1) := by
  have hlen : row.hdrlen - 3 = row.rw + row.rw := by
    obtain ⟨-, -, ⟨-, h, -⟩ | ⟨h, -⟩ | ⟨h, -⟩ | ⟨h, -⟩⟩ := hrow
    · omega
    all_goals rw [ht] at h; cases h
  rw [hlen, Memory.readBytes_add]
  simp [QualRow.range, ht, hstart, hstop, le_readBytes, List.take_of_length_le]

/-- The count field holds the count (R284). -/
theorem QualRow.range_of_counted {row : QualRow} (m : Memory) (a : Nat) (hrow : row.Shape)
    (ht : row.htype = .count ∨ row.htype = .countIndex) :
    row.range (m.readBytes a (row.hdrlen - 3)) = .ok (0, littleEndian m a row.rw) := by
  have hlen : row.hdrlen - 3 = row.rw := by
    obtain ⟨-, -, ⟨h, -⟩ | ⟨h, -⟩ | ⟨-, h, -⟩ | ⟨-, h, -⟩⟩ := hrow
    · simp [h] at ht
    · simp [h] at ht
    · omega
    · omega
  obtain ht | ht := ht
  all_goals simp only [QualRow.range, ht, hlen, le_readBytes]

/-! The header -/

theorem HeaderInfo.pack_eq (h : HeaderInfo) : h.pack = BitVec.ofNat 64 (h.group.toNat + h.var.toNat * 2 ^ 8 +
    h.qual.toNat * 2 ^ 16 + h.hdrlen.toNat * 2 ^ 24 + h.pfx.bytes * 2 ^ 28 +
    (if h.otype = .bitfield then 2 ^ 31 else 0) + h.start.toNat * 2 ^ 32) := by
  have hpfx : h.pfx.bytes % 2 ^ 3 = h.pfx.bytes := by cases h.pfx <;> rfl
  have hbit : (BitVec.ofBool h.otype.bit).toNat * 2 ^ 31 = if h.otype = .bitfield then 2 ^ 31 else 0 := by
    cases h.otype <;> rfl
  have hnumber : h.pack.toNat = h.group.toNat + h.var.toNat * 2 ^ 8 + h.qual.toNat * 2 ^ 16 +
      h.hdrlen.toNat * 2 ^ 24 + h.pfx.bytes * 2 ^ 28 + (if h.otype = .bitfield then 2 ^ 31 else 0) +
      h.start.toNat * 2 ^ 32 := by
    rw [← hbit]
    simp only [HeaderInfo.pack, toNat_append_add, BitVec.toNat_ofNat, hpfx]
    ring
  rw [← setWidth_eq_ofNat hnumber, BitVec.setWidth_eq]

section
variable {otype : ObjType} {osize : Half} {addr : Word} {s : State} {row : QualRow}

theorem parseHeader_short (h : s.cfg.bufSize < addr.toNat + 3) :
    parseHeader otype osize addr s = .error (bufRange addr.toNat) := by
  rw [parseHeader, State.memRead_out (by decide) h]

theorem parseHeader_qualifier (h : addr.toNat + 3 ≤ s.cfg.bufSize) (hq : qualRow (s.buf.read (addr.toNat + 2)) = none) :
    parseHeader otype osize addr s = .error ⟨.badQualifier, (s.buf.read (addr.toNat + 2)).setWidth 64⟩ := by
  rcases parseHeader_cases otype osize addr s with ⟨h', -⟩ | ⟨-, -, e⟩ | ⟨row, -, hrow, -⟩ | ⟨row, r, hrow, -⟩ |
    ⟨row, start, count, hrow, -⟩
  · omega
  · exact e
  all_goals rw [hq] at hrow; cases hrow

theorem parseHeader_truncated (h : addr.toNat + 3 ≤ s.cfg.bufSize)
    (hq : qualRow (s.buf.read (addr.toNat + 2)) = some row) (hr : s.cfg.bufSize < addr.toNat + row.hdrlen) :
    parseHeader otype osize addr s = .error (bufRange (addr.toNat + 3)) := by
  rcases parseHeader_cases otype osize addr s with ⟨h', -⟩ | ⟨-, h', -⟩ | ⟨_, -, -, -, e⟩ | ⟨row', r, h', hin, -⟩ |
    ⟨row', start, count, h', hin, -⟩
  · omega
  · rw [hq] at h'; cases h'
  · exact e
  all_goals rw [hq] at h'; cases h'; omega

/-- A header that lies inside `BUF` is what its range or count field gives. -/
theorem parseHeader_inside (hq : qualRow (s.buf.read (addr.toNat + 2)) = some row)
    (hr : addr.toNat + row.hdrlen ≤ s.cfg.bufSize) :
    parseHeader otype osize addr s = (row.range (s.buf.readBytes (addr.toNat + 3) (row.hdrlen - 3))).map
      fun p => row.header s.buf otype osize addr.toNat p.1 p.2 := by
  obtain ⟨-, hlo, -⟩ := qualRow_shape hq
  rcases parseHeader_cases otype osize addr s with ⟨h', -⟩ | ⟨-, h', -⟩ | ⟨row', -, h', hout, -⟩ |
    ⟨row', r, h', -, hf, e⟩ | ⟨row', start, count, h', -, hf, e⟩
  · omega
  all_goals rw [hq] at h'; cases h'
  · omega
  all_goals rw [hf, e]; rfl

theorem raises_of_parseHeader {r : Raise} (hs : s.halt = false) (h : parseHeader otype osize addr s = .error r) :
    Raises (.ohParse otype osize addr) s r.err.code r.info :=
  raises_of_error rfl hs ((headerParse_eq_map ..).trans (by rw [h]; rfl))

theorem parses_of_parseHeader {e : QualifierEntry} {start count : Nat} (hs : s.halt = false)
    (hlen : e.hdrlen < 16) (hstart : start < 2 ^ 32) (hq : e.qual = s.buf.read (addr.toNat + 2))
    (h : parseHeader otype osize addr s =
      .ok ((qualifierRow e).header s.buf otype osize addr.toNat (BitVec.ofNat 32 start) count)) :
    Parses otype osize addr s e start count := by
  have hpack := HeaderInfo.pack_eq
    ((qualifierRow e).header s.buf otype osize addr.toNat (BitVec.ofNat 32 start) count)
  simp only [QualRow.header, qualifierRow, BitVec.toNat_ofNat, Nat.mod_eq_of_lt hstart,
    Nat.mod_eq_of_lt (show e.hdrlen < 2 ^ 4 from hlen), ← hq] at hpack
  have hrun : exec (.ohParse otype osize addr) s = _ :=
    exec_of_ok rfl hs ((headerParse_eq_map ..).trans (by rw [h]; rfl))
  simp only [State.respond, QualRow.header, qualifierRow, ← hq, hpack] at hrun
  exact hrun

end

/-- Settles O38: the entry that the qualifier selects is the model's row (`qualRow_of_mem_qualifierTable`), and inside
`BUF` the header is what that row's range or count field gives (`parseHeader_inside`). -/
theorem headerParseFillsHeaderInfo : Obligations.HeaderParseFillsHeaderInfo := by
  refine ⟨fun otype osize addr opb => decode_of_ohParse_word (ohParse_word ..) rfl,
    fun otype osize addr s hs => ⟨fun ha => ?short, fun ha hq => ?qualifier, fun ha e he hq => ⟨fun hr => ?truncated,
      fun hr => ⟨fun ht start hstart stop hstop => ⟨fun hlt => ?badRange, fun hle => ?ranged⟩, fun ht => ?all,
        fun ht => ?counted⟩⟩⟩⟩
  case short =>
    have hraise := raises_of_parseHeader (otype := otype) (osize := osize) hs (parseHeader_short ha)
    rwa [bufRange, BitVec.ofNat_toNat] at hraise
  case qualifier => exact raises_of_parseHeader hs (parseHeader_qualifier ha (qualRow_eq_none hq))
  all_goals
    have hrow := qualRow_of_mem_qualifierTable e he
    have hshape := qualRow_shape hrow
    have hlen : e.hdrlen ≤ 11 := hshape.1
    rw [hq] at hrow
  case truncated => exact raises_of_parseHeader hs (parseHeader_truncated ha hrow hr)
  all_goals have hin := parseHeader_inside (otype := otype) (osize := osize) hrow hr
  case badRange =>
    rw [QualRow.range_of_ranged _ _ hshape ht hstart hstop, if_pos hlt] at hin
    exact raises_of_parseHeader hs hin
  case ranged =>
    rw [QualRow.range_of_ranged _ _ hshape ht hstart hstop, if_neg (Nat.not_lt.2 hle)] at hin
    have hrw : e.rw ≤ 4 := (by decide : ∀ e ∈ qualifierTable, e.rw ≤ 4) e he
    exact parses_of_parseHeader hs (by omega) (hstart ▸ littleEndian_lt_word _ _ hrw) hq hin
  case all =>
    rw [QualRow.range, show (qualifierRow e).htype = .all from ht] at hin
    exact parses_of_parseHeader hs (by omega) (by decide) hq hin
  case counted =>
    rw [QualRow.range_of_counted _ _ hshape ht] at hin
    exact parses_of_parseHeader hs (by omega) (by decide) hq hin

end Sys2Proof.Machine
end

section
/-! PROOFS about the iterator's instructions (43_object_iterator.md R285 to R293): where an object is placed, what the
start and an advance make of an iterator, what the queries answer. -/

namespace Sys2Proof.Machine

open Sys2Proof Sys2Proof.Claims

/-! Placing the iterator at an object (R282, R283) -/

theorem PrefixSize.bytes_eq_zero {p : PrefixSize} : p.bytes = 0 ↔ p = .none := by cases p <;> simp [PrefixSize.bytes]

section
variable {s : State} {h : HeaderInfo} {p : Nat}

theorem placeAt_of_prefixInside (hp : prefixInside s h p) (d : Bool) (n : Nat) :
    placeAt s h d p n = .ok (iteratorAt s.buf h d p n) := by
  refine placeAt_eq_ok.2 ⟨BitVec.ofNat 32 (objectIndex s.buf h p n), ?_, rfl⟩
  rcases calcIndex_cases s h p n with ⟨ht, e⟩ | ⟨ht | ht, e⟩ | ⟨ht, -, e⟩ | ⟨ht, hpfx, hout, -⟩
  · rw [e, objectIndex, ht]
  · rw [e, objectIndex, ht]
  · rw [e, objectIndex, ht]
  · rw [e, objectIndex, ht, le_readBytes]
  · rcases hp ht with hnone | hin
    · exact absurd (PrefixSize.bytes_eq_zero.2 hnone) hpfx
    · omega

theorem placeAt_of_not_prefixInside (hp : ¬prefixInside s h p) (d : Bool) (n : Nat) :
    placeAt s h d p n = .error (bufRange p) := by
  obtain ⟨ht, hout⟩ := Classical.not_imp.1 hp
  obtain ⟨hpfx, hlt⟩ := not_or.1 hout
  exact placeAt_eq_error.2 ⟨ht, mt PrefixSize.bytes_eq_zero.1 hpfx, Nat.lt_of_not_le hlt, rfl⟩

end

/-! `OI.INIT` (R285) -/

theorem decode_of_oiInit_word {cw addr : Word} {hasdata : Bool} (opb : DWord)
    (hcw : opcodeField cw = 0x61 ∧ argField cw &&& ~~~0x000001#24 = 0 ∧ cw.getLsbD 0 = hasdata) :
    decode ⟨cw, addr, opb⟩ = .ok (.oiInit hasdata addr) := by
  obtain ⟨hopc, harg, hdata⟩ := hcw
  rw [decode_oiInit (f := ⟨cw, addr, opb⟩) hopc, withArg_eq_ok, hdata]
  exact ⟨harg, rfl⟩

theorem initRefused_eq_true {h : HeaderInfo} {d : Bool} :
    initRefused h d = true ↔ h.pfx ≠ .none ∧ (d = false ∨ h.otype = .bitfield) := by
  simp [initRefused, PrefixSize.bytes_eq_zero]

theorem initRefused_eq_false {h : HeaderInfo} {d : Bool} :
    initRefused h d = false ↔ h.pfx = .none ∨ (d = true ∧ h.otype = .fixed) := by
  rw [← Bool.not_eq_true, initRefused_eq_true]
  cases h.otype <;> cases d <;> simp

section
variable {s : State} {hasdata : Bool} {addr : Word}

theorem raises_of_startIter {r : Raise} (hs : s.halt = false) (hok : initRefused s.hi hasdata = false)
    (h : startIter s s.hi hasdata addr = .error r) : Raises (.oiInit hasdata addr) s r.err.code r.info :=
  raises_of_error rfl hs ((iterInit_accepted hok).trans (by rw [h]; rfl))

theorem exec_oiInit_of_startIter {i : Iter} (hs : s.halt = false) (hok : initRefused s.hi hasdata = false)
    (h : startIter s s.hi hasdata addr = .ok i) :
    exec (.oiInit hasdata addr) s = .next ({ s with it := i }.respond (BitVec.ofNat 64 s.hi.count)) :=
  exec_of_ok rfl hs ((iterInit_accepted hok).trans (by rw [h]; rfl))

theorem startIter_empty (hc : s.hi.count = 0) : startIter s s.hi hasdata addr =
    .ok ⟨s.hi, 0, hasdata, BitVec.ofNat 64 (if hasdata then addr.toNat else 0),
      BitVec.ofNat 64 ((if hasdata then addr.toNat else 0) + s.hi.pfx.bytes), 0, s.hi.start⟩ :=
  ((startIter_cases s s.hi hasdata addr).resolve_left fun h => by omega).2

theorem startIter_first (hc : 0 < s.hi.count) :
    startIter s s.hi hasdata addr = placeAt s s.hi hasdata (if hasdata then addr.toNat else 0) 0 :=
  ((startIter_cases s s.hi hasdata addr).resolve_right fun h => by omega).2

end

/-- Settles O39: what is not refused starts an iterator, empty (`startIter_empty`) or placed at the first object
(`startIter_first`). -/
theorem iteratorInitStartsAtTheFirstObject : Obligations.IteratorInitStartsAtTheFirstObject := by
  refine ⟨fun addr opb => decode_of_oiInit_word opb (by decide), fun addr opb => decode_of_oiInit_word opb (by decide),
    fun hasdata addr s hs => ⟨fun hpfx hd => ?refused, fun hok p hp => ⟨fun hc => ?empty, fun hc hin => ?first,
      fun hc hout => ?outside⟩⟩⟩
  case refused =>
    have hrefused := initRefused_eq_true.2 ⟨hpfx, hd⟩
    exact raises_of_error rfl hs (r := ⟨.argRange, s.hi.qual.setWidth 64⟩) (if_pos hrefused)
  all_goals
    have haccepted := initRefused_eq_false.2 hok
    subst hp
  case empty =>
    have hrun := exec_oiInit_of_startIter hs haccepted (startIter_empty (addr := addr) hc)
    rw [hc] at hrun
    exact hrun
  case first =>
    exact exec_oiInit_of_startIter hs haccepted ((startIter_first hc).trans (placeAt_of_prefixInside hin ..))
  case outside =>
    exact raises_of_startIter hs haccepted ((startIter_first hc).trans (placeAt_of_not_prefixInside hout ..))

/-! The advance (R289, R290) -/

theorem Iter.nextPfxPos_eq_nextPrefix (i : Iter) : i.nextPfxPos = nextPrefix i := by
  unfold Iter.nextPfxPos nextPrefix
  cases i.h.otype <;> cases i.hasData <;> rfl

theorem Iter.atEnd_of_le {i : Iter} (h : i.h.count ≤ i.n) : i.atEnd = true := decide_eq_true h

theorem Iter.atEnd_of_lt {i : Iter} (h : i.n < i.h.count) : i.atEnd = false := decide_eq_false (Nat.not_le.2 h)

/-- An instruction that advances `IT` and gives `ITS` the value `its`: it raises what the advance raises and answers
whether the end is reached. -/
def Advances (i : Instr) (s : State) (its : Iter) : Prop :=
  (∀ r, advance s s.it = .error r → Raises i s r.err.code r.info) ∧
  ∀ j, advance s s.it = .ok j → exec i s = .next ({ s with it := j, its := its }.respond (flag64 j.atEnd))

theorem oiInc_advances {s : State} (hs : s.halt = false) : Advances .oiInc s s.its :=
  ⟨fun _ h => raises_of_error rfl hs ((iterInc_eq_map s).trans (by rw [h]; rfl)),
    fun _ h => exec_of_ok rfl hs ((iterInc_eq_map s).trans (by rw [h]; rfl))⟩

theorem oiPinc_advances {s : State} (hs : s.halt = false) : Advances .oiPinc s s.it :=
  ⟨fun _ h => raises_of_error rfl hs ((iterPostInc_eq_map s).trans (by rw [h]; rfl)),
    fun _ h => exec_of_ok rfl hs ((iterPostInc_eq_map s).trans (by rw [h]; rfl))⟩

section
variable {s : State} {i : Iter}

theorem advance_past (h : i.h.count ≤ i.n) : advance s i = .error (pastEnd i) := by
  rcases advance_cases s i with ⟨-, e⟩ | ⟨h', -⟩ | ⟨h', -⟩
  · exact e
  all_goals omega

theorem advance_next (h : i.n + 1 < i.h.count) :
    advance s i = placeAt s i.h i.hasData (nextPrefix i) (i.n + 1) := by
  rcases advance_cases s i with ⟨h', -⟩ | ⟨-, e⟩ | ⟨h', -⟩
  · omega
  · rw [e, Iter.nextPfxPos_eq_nextPrefix]
  · omega

theorem advance_last (h : i.n + 1 = i.h.count) : advance s i = .ok { i with n := i.n + 1 } := by
  rcases advance_cases s i with ⟨h', -⟩ | ⟨h', -⟩ | ⟨-, e⟩
  · omega
  · omega
  · exact e

end

theorem Advances.advanceRule {i : Instr} {s : State} {its : Iter} (h : Advances i s its) : AdvanceRule i s its := by
  obtain ⟨herror, hok⟩ := h
  refine ⟨fun hn => ?past, fun hn => ?last, fun hn hp => ?next, fun hn hp => ?outside⟩
  case past => exact herror _ (advance_past hn)
  case last =>
    have hend : Iter.atEnd { s.it with n := s.it.n + 1 } = true := Iter.atEnd_of_le hn.ge
    rw [hok _ (advance_last hn), hend]
    rfl
  case next =>
    have hend : (iteratorAt s.buf s.it.h s.it.hasData (nextPrefix s.it) (s.it.n + 1)).atEnd = false :=
      Iter.atEnd_of_lt hn
    rw [hok _ ((advance_next hn).trans (placeAt_of_prefixInside hp ..)), hend]
    rfl
  case outside => exact herror _ ((advance_next hn).trans (placeAt_of_not_prefixInside hp ..))

/-- Settles O42: `OI.INC` advances `IT` and gives `ITS` its own value again. -/
theorem incrementAdvancesTheIterator : Obligations.IncrementAdvancesTheIterator :=
  ⟨decode_of_noArg (fun _ _ => .oiInc) decode_oiInc (by decide), fun _ hs => (oiInc_advances hs).advanceRule⟩

/-- Settles O43: `OI.PINC` advances `IT` as `OI.INC` does and gives `ITS` the iterator before the advance. -/
theorem postIncrementKeepsASnapshot : Obligations.PostIncrementKeepsASnapshot :=
  ⟨decode_of_noArg (fun _ _ => .oiPinc) decode_oiPinc (by decide), fun _ hs => (oiPinc_advances hs).advanceRule⟩

/-! The queries (R286 to R288, R291, R292) -/

/-- Settles O40: the answers are the fields of `IT`, with `flag64` for the yes-or-no ones. -/
theorem iteratorQueriesAnswerFromIt : Obligations.IteratorQueriesAnswerFromIt := by
  refine ⟨decode_of_noArg (fun _ _ => .oiHasdata) decode_oiHasdata (by decide),
    decode_of_noArg (fun _ _ => .oiCount) decode_oiCount (by decide),
    decode_of_noArg (fun _ _ => .oiIsend) decode_oiIsend (by decide), fun s hs => ?_⟩
  have hdata : Answers .oiHasdata s (flag64 s.it.hasData) := exec_of_ok rfl hs rfl
  have hend : Answers .oiIsend s (flag64 s.it.atEnd) := exec_of_ok rfl hs rfl
  refine ⟨fun h => ?_, fun h => ?_, exec_of_ok rfl hs rfl, fun h => ?_, fun h => ?_⟩
  · rwa [h] at hdata
  · rwa [h] at hdata
  · rwa [Iter.atEnd_of_le h] at hend
  · rwa [Iter.atEnd_of_lt h] at hend

section
variable {s : State}

theorem iterDeref_noData (hd : s.it.hasData = false) :
    iterDeref s = .error ⟨.iterNoData, BitVec.ofNat 64 s.it.n⟩ := if_pos hd

theorem iterDeref_past (hd : s.it.hasData = true) (hn : s.it.h.count ≤ s.it.n) :
    iterDeref s = .error (pastEnd s.it) := by simp [iterDeref, hd, Iter.atEnd_of_le hn]

theorem iterDeref_inside (hd : s.it.hasData = true) (hn : s.it.n < s.it.h.count) :
    iterDeref s = .ok (s.respond s.it.pos) := by simp [iterDeref, hd, Iter.atEnd_of_lt hn]

theorem iterInfo_past (hn : s.it.h.count ≤ s.it.n) : iterInfo s = .error (pastEnd s.it) :=
  if_pos (Iter.atEnd_of_le hn)

theorem iterInfo_inside (hn : s.it.n < s.it.h.count) :
    iterInfo s = .ok (s.respond (BitVec.ofNat 64 (s.it.index.toNat + s.it.start.toNat * 2 ^ 32))) := by
  have hpair : (s.it.start ++ s.it.index).toNat = s.it.index.toNat + s.it.start.toNat * 2 ^ 32 := by
    rw [toNat_append_add, Nat.add_comm]
  rw [iterInfo, Iter.atEnd_of_lt hn, ← setWidth_eq_ofNat hpair, BitVec.setWidth_eq]
  rfl

end

/-- Settles O41: `OI.DEREF` looks at the data before the end, `OI.INFO` at the end alone. -/
theorem iteratorAccessIsBounded : Obligations.IteratorAccessIsBounded :=
  ⟨decode_of_noArg (fun _ _ => .oiDeref) decode_oiDeref (by decide),
    decode_of_noArg (fun _ _ => .oiInfo) decode_oiInfo (by decide),
    fun _ hs => ⟨fun hd => raises_of_error (i := .oiDeref) rfl hs (iterDeref_noData hd),
      fun hd hn => raises_of_error (i := .oiDeref) rfl hs (iterDeref_past hd hn),
      fun hd hn => exec_of_ok rfl hs (iterDeref_inside hd hn),
      fun hn => raises_of_error (i := .oiInfo) rfl hs (iterInfo_past hn),
      fun hn => exec_of_ok rfl hs (iterInfo_inside hn)⟩⟩

/-! `OI.SWAP` (R293) -/

theorem exec_oiSwap {s : State} (hs : s.halt = false) :
    exec .oiSwap s = .next { s with it := s.its, its := s.it, rsp := some ⟨0x00, 0, []⟩ } := exec_of_ok rfl hs rfl

/-- Settles O44: the second exchange undoes the first, which leaves the DCB running. -/
theorem swapExchangesIteratorAndSnapshot : Obligations.SwapExchangesIteratorAndSnapshot :=
  ⟨decode_of_noArg (fun _ _ => .oiSwap) decode_oiSwap (by decide), fun _ hs => exec_oiSwap hs,
    fun _ hs => ⟨_, _, exec_oiSwap hs, exec_oiSwap hs, rfl, rfl⟩⟩

end Sys2Proof.Machine
end

section
/-! PROOFS about the laws of the cursor (43_object_iterator.md R296, R297): where the object numbered `k` is, the run of
advances that follows an `OI.INIT`, and that no other command moves the cursor back. -/

namespace Sys2Proof.Machine

open Sys2Proof Sys2Proof.Claims

/-! Bounds of legal headers (R283; 10_state.md R31) -/

/-- What legality says of the count, without the reset value: a header with objects is a parsed one. -/
theorem HeaderInfo.legal.countLegal {h : HeaderInfo} (hl : h.legal) (hc : 0 < h.count) : h.countLegal := by
  rcases hl with rfl | ⟨hcount, -⟩
  · exact absurd hc (by decide)
  · exact hcount

theorem HeaderInfo.legal.count_le {h : HeaderInfo} (hl : h.legal) : h.count ≤ 2 ^ 32 := by
  rcases Nat.eq_zero_or_pos h.count with hc | hc
  · omega
  · have hcount := hl.countLegal hc
    unfold HeaderInfo.countLegal at hcount
    split at hcount <;> omega

/-- The index of an object fits in its register. -/
theorem HeaderInfo.legal.objectIndex_lt {h : HeaderInfo} (hl : h.legal) {k : Nat} (hk : k < h.count) (m : Memory)
    (p : Nat) : objectIndex m h p k < 2 ^ 32 := by
  have hcount := hl.countLegal (by omega)
  unfold HeaderInfo.countLegal at hcount
  unfold objectIndex
  cases ht : h.htype <;> rw [ht] at hcount
  case countIndex => exact littleEndian_lt_word _ _ h.pfx.bytes_le
  all_goals
    simp only at hcount ⊢
    omega

/-! The closed form (R296) -/

/-- Where the law puts object `k`, its index bytes first. -/
def cursorAfter (h : HeaderInfo) (hasdata : Bool) (dataaddr k : Nat) : Nat :=
  match hasdata, h.otype with
  | true, .fixed => dataaddr + k * (h.pfx.bytes + h.osize.toNat)
  | true, .bitfield => dataaddr
  | false, _ => 0

section
variable {h : HeaderInfo} {hasdata : Bool} {dataaddr k : Nat}

theorem cursorAfter_fixed (ht : h.otype = .fixed) :
    cursorAfter h true dataaddr k = dataaddr + k * (h.pfx.bytes + h.osize.toNat) := by
  simp only [cursorAfter, ht]

theorem cursorAfter_bitfield (ht : h.otype = .bitfield) : cursorAfter h true dataaddr k = dataaddr := by
  simp only [cursorAfter, ht]

@[simp] theorem cursorAfter_noData : cursorAfter h false dataaddr k = 0 := rfl

theorem cursorAfter_zero : cursorAfter h hasdata dataaddr 0 = if hasdata then dataaddr else 0 := by
  cases hasdata
  · rfl
  · cases ht : h.otype
    · rw [cursorAfter_fixed ht, Nat.zero_mul]; rfl
    · rw [cursorAfter_bitfield ht]; rfl

/-- The cursor, and the index bytes behind it, fit in 64 bits. -/
theorem cursorAfter_lt (ha : dataaddr < 2 ^ 32) (hk : k ≤ 2 ^ 32) : cursorAfter h hasdata dataaddr k + 4 < 2 ^ 64 := by
  have hsize : k * (h.pfx.bytes + h.osize.toNat) ≤ 2 ^ 32 * (4 + 65535) :=
    Nat.mul_le_mul hk (Nat.add_le_add h.pfx.bytes_le (Nat.le_of_lt_succ h.osize.isLt))
  cases hasdata
  · rw [cursorAfter_noData]; decide
  · cases ht : h.otype
    · rw [cursorAfter_fixed ht]; omega
    · rw [cursorAfter_bitfield ht]; omega

theorem iteratorAt_pfxPos_toNat {m : Memory} {p n : Nat} (hp : p < 2 ^ 64) :
    (iteratorAt m h hasdata p n).pfxPos.toNat = p := (BitVec.toNat_ofNat ..).trans (Nat.mod_eq_of_lt hp)

/-- One advance moves the cursor of the closed form to the next object. -/
theorem nextPrefix_iteratorAt {m : Memory} {n : Nat} (hp : cursorAfter h hasdata dataaddr k < 2 ^ 64) :
    nextPrefix (iteratorAt m h hasdata (cursorAfter h hasdata dataaddr k) n) =
      cursorAfter h hasdata dataaddr (k + 1) := by
  have hpos := iteratorAt_pfxPos_toNat (m := m) (h := h) (hasdata := hasdata) (n := n) hp
  rw [nextPrefix, hpos]
  cases hasdata
  · cases ht : h.otype <;> simp [iteratorAt, ht]
  · cases ht : h.otype
    · simp only [iteratorAt, ht, cursorAfter_fixed ht]; ring
    · simp only [iteratorAt, ht, cursorAfter_bitfield ht]

/-- An iterator placed by the closed form is where the law says. -/
theorem cursorAt_iteratorAt (hl : h.legal) (ha : dataaddr < 2 ^ 32) (hk : k < h.count) (m : Memory) :
    CursorAt m h hasdata dataaddr k (iteratorAt m h hasdata (cursorAfter h hasdata dataaddr k) k) := by
  have hroom := cursorAfter_lt (h := h) (hasdata := hasdata) ha (hk.le.trans hl.count_le)
  have hpfx := h.pfx.bytes_le
  have hpos := iteratorAt_pfxPos_toNat (m := m) (h := h) (hasdata := hasdata) (n := k)
    (show cursorAfter h hasdata dataaddr k < 2 ^ 64 by omega)
  constructor
  case header => rfl
  case n => rfl
  case fixedData => rintro ht rfl; rw [hpos, cursorAfter_fixed ht]
  case bitfieldData => rintro ht rfl; rw [hpos, cursorAfter_bitfield ht]
  case noData => rintro rfl; rw [hpos, cursorAfter_noData]
  case pos =>
    rw [hpos]
    exact (BitVec.toNat_ofNat ..).trans (Nat.mod_eq_of_lt (by omega))
  case index =>
    rw [hpos]
    exact (BitVec.toNat_ofNat ..).trans (Nat.mod_eq_of_lt (hl.objectIndex_lt hk ..))

end

/-! The run of advances -/

/-- What an indexed property keeps from one command to the next holds of every state of a run. -/
theorem statesAfter_induction {P : Nat → State → Prop} {is : List Instr}
    (hstep : ∀ i ∈ is, ∀ k t, P k t → ∃ u, exec i t = .next u ∧ P (k + 1) u) {k : Nat} {t : State} (h : P k t) :
    (statesAfter is t).length = is.length ∧ ∀ j u, (statesAfter is t)[j]? = some u → P (k + 1 + j) u := by
  induction is generalizing k t with
  | nil => exact ⟨rfl, fun j u hu => by simp [statesAfter] at hu⟩
  | cons i is ih =>
    obtain ⟨v, hv, hP⟩ := hstep i (.head is) k t h
    obtain ⟨hlength, hall⟩ := ih (fun i' hi' => hstep i' (.tail i hi')) hP
    rw [statesAfter_cons hv]
    refine ⟨by rw [List.length_cons, List.length_cons, hlength], fun j u hu => ?_⟩
    cases j with
    | zero =>
      rw [List.getElem?_cons_zero, Option.some.injEq] at hu
      exact hu ▸ hP
    | succ j =>
      rw [List.getElem?_cons_succ] at hu
      have hu' := hall j u hu
      rwa [Nat.add_assoc (k + 1), Nat.add_comm 1 j] at hu'

/-- The premises of the law on the header in `HI`: `OI.INIT` accepts it, and its index bytes lie inside `BUF`. -/
structure Walkable (s : State) (hasdata : Bool) (addr : Word) : Prop where
  legal : s.hi.legal
  accepted : s.hi.pfx = .none ∨ (hasdata = true ∧ s.hi.otype = .fixed)
  inside : s.hi.htype = .countIndex →
    ∀ k < s.hi.count, addr.toNat + k * (s.hi.pfx.bytes + s.hi.osize.toNat) + s.hi.pfx.bytes ≤ s.cfg.bufSize

/-- What the `k`-th advance over `count` objects answers. -/
def advanceAnswer (count k : Nat) : Response :=
  if k < count then ⟨0x00, 0, []⟩ else if k = count then ⟨0x00, 1, []⟩ else ⟨0x03, 0, []⟩

/-- `t` is the state after `OI.INIT` over the header of `s` and `k` advances, of which the first `COUNT` succeed. -/
structure Walked (s : State) (hasdata : Bool) (addr : Word) (k : Nat) (t : State) : Prop where
  running : t.halt = false
  cfg : t.cfg = s.cfg
  buf : t.buf = s.buf
  header : t.it.h = s.hi
  n : t.it.n = min k s.hi.count
  placed : k < s.hi.count → t.it = iteratorAt s.buf s.hi hasdata (cursorAfter s.hi hasdata addr.toNat k) k
  answer : 1 ≤ k → t.rsp = some (advanceAnswer s.hi.count k)

theorem advanceRule_of_advance {i : Instr} {t : State} (hi : i = .oiInc ∨ i = .oiPinc) (ht : t.halt = false) :
    ∃ its, AdvanceRule i t its := by
  rcases hi with rfl | rfl
  · exact ⟨_, (oiInc_advances ht).advanceRule⟩
  · exact ⟨_, (oiPinc_advances ht).advanceRule⟩

section
variable {s t : State} {hasdata : Bool} {addr : Word} {k : Nat}

theorem Walkable.prefixInside_cursorAfter (hw : Walkable s hasdata addr) (hk : k < s.hi.count) :
    prefixInside s s.hi (cursorAfter s.hi hasdata addr.toNat k) := fun ht => by
  rcases hw.accepted with hpfx | ⟨rfl, hotype⟩
  · exact .inl hpfx
  · rw [cursorAfter_fixed hotype]
    exact .inr (hw.inside ht k hk)

theorem Walkable.oiInit (hw : Walkable s hasdata addr) (hs : s.halt = false) :
    ∃ t, exec (.oiInit hasdata addr) s = .next t ∧ Walked s hasdata addr 0 t := by
  obtain ⟨-, -, hrule⟩ := iteratorInitStartsAtTheFirstObject
  obtain ⟨-, hstart⟩ := hrule hasdata addr s hs
  obtain ⟨hempty, hfirst, -⟩ := hstart hw.accepted _ rfl
  rcases Nat.eq_zero_or_pos s.hi.count with hc | hc
  · exact ⟨_, hempty hc, hs, rfl, rfl, rfl, by rw [Nat.zero_min], fun hk => by omega, fun hk => by omega⟩
  · have hinside := hw.prefixInside_cursorAfter hc
    rw [cursorAfter_zero] at hinside
    exact ⟨_, hfirst hc hinside, hs, rfl, rfl, rfl, by rw [Nat.zero_min]; rfl, fun _ => by rw [cursorAfter_zero],
      fun hk => by omega⟩

theorem Walked.advance (h : Walked s hasdata addr k t) (hw : Walkable s hasdata addr) {i : Instr}
    (hi : i = .oiInc ∨ i = .oiPinc) : ∃ u, exec i t = .next u ∧ Walked s hasdata addr (k + 1) u := by
  obtain ⟨its, hpast, hlast, hnext, -⟩ := advanceRule_of_advance hi h.running
  rw [h.header, h.n] at hpast hlast hnext
  rcases Nat.lt_trichotomy (k + 1) s.hi.count with hlt | heq | hgt
  · have hmin : min k s.hi.count = k := by omega
    have hroom := cursorAfter_lt (h := s.hi) (hasdata := hasdata) addr.isLt
      (show k ≤ 2 ^ 32 from (by omega : k ≤ s.hi.count).trans hw.legal.count_le)
    have hprefix : nextPrefix t.it = cursorAfter s.hi hasdata addr.toNat (k + 1) := by
      rw [h.placed (by omega), nextPrefix_iteratorAt (by omega)]
    have hdata : t.it.hasData = hasdata := by rw [h.placed (by omega)]; rfl
    have hinside : prefixInside t s.hi (cursorAfter s.hi hasdata addr.toNat (k + 1)) := by
      rw [prefixInside, h.cfg]
      exact hw.prefixInside_cursorAfter hlt
    rw [hmin, hprefix, hdata, h.buf] at hnext
    exact ⟨_, hnext hlt hinside, h.running, h.cfg, rfl, rfl, (Nat.min_eq_left hlt.le).symm, fun _ => rfl,
      fun _ => by rw [advanceAnswer, if_pos hlt]⟩
  · have hmin : min k s.hi.count = k := by omega
    rw [hmin] at hlast
    exact ⟨_, hlast heq, h.running, h.cfg, h.buf, h.header, (Nat.min_eq_left heq.le).symm, fun hk => by omega,
      fun _ => by rw [advanceAnswer, if_neg (by omega), if_pos heq]⟩
  · have hmin : min k s.hi.count = min (k + 1) s.hi.count := by omega
    exact ⟨_, hpast (by omega), h.running, h.cfg, h.buf, h.header, h.n.trans hmin, fun hk => by omega,
      fun _ => by rw [advanceAnswer, if_neg (by omega), if_neg (by omega)]; rfl⟩

theorem Walked.cursorAt (h : Walked s hasdata addr k t) (hw : Walkable s hasdata addr) (hk : k < s.hi.count) :
    CursorAt s.buf s.hi hasdata addr.toNat k t.it := by
  rw [h.placed hk]
  exact cursorAt_iteratorAt hw.legal addr.isLt hk s.buf

end

/-- Settles O45: `OI.INIT` starts a walk (`Walkable.oiInit`), each advance continues it (`Walked.advance`), and the
states of a walk are those the law describes. -/
theorem cursorHasItsClosedForm : Obligations.CursorHasItsClosedForm := by
  intro s hasdata addr steps hs _ hobjects haccepted hinside hsteps states
  have hw : Walkable s hasdata addr := ⟨hobjects.hi, haccepted, hinside⟩
  obtain ⟨t₀, hinit, hstart⟩ := hw.oiInit hs
  obtain ⟨hlength, hall⟩ := statesAfter_induction (P := Walked s hasdata addr)
    (fun i hi k t ht => ht.advance hw (hsteps i hi)) hstart
  have hstates : states = t₀ :: statesAfter steps t₀ := statesAfter_cons hinit
  have hwalked : ∀ k t, states[k]? = some t → Walked s hasdata addr k t := by
    intro k t ht
    rw [hstates] at ht
    cases k with
    | zero => exact Option.some.inj ht ▸ hstart
    | succ k =>
      have h := hall k t ht
      rwa [Nat.zero_add, Nat.add_comm 1 k] at h
  refine ⟨by rw [hstates, List.length_cons, hlength], fun k t ht => ?_⟩
  have h := hwalked k t ht
  refine ⟨h.cursorAt hw, fun hpos hk => ?_, fun hpos hk => ⟨?_, ?_⟩, fun hpos hk => ⟨?_, ?_⟩⟩
  · rw [h.answer hpos, advanceAnswer, if_pos hk]
  · rw [h.answer hpos, advanceAnswer, if_neg (by omega), if_pos hk]
  · rw [h.n, Nat.min_eq_left hk.le]
  · rw [h.answer hpos, advanceAnswer, if_neg (by omega), if_neg (by omega)]
  · rw [h.n, Nat.min_eq_right hk.le]

/-! What leaves the object registers alone -/

/-- A pseudocode that does not write `HI`, `IT` and `ITS`. -/
def KeepsObjects (body : State → Except Raise State) : Prop :=
  ∀ s t, body s = .ok t → t.hi = s.hi ∧ t.it = s.it ∧ t.its = s.its

theorem codecRead_keepsObjects (w : Nat) (o : ByteOrder) (ext : Nat → DWord) (addr : Word) :
    KeepsObjects (codecRead w o ext addr) := fun s t h => by
  obtain ⟨-, rfl⟩ := codecRead_eq_ok.1 h
  exact ⟨rfl, rfl, rfl⟩

theorem codecWrite_keepsObjects (w : Nat) (o : ByteOrder) (addr : Word) (v : Nat) :
    KeepsObjects (codecWrite w o addr v) := fun s t h => by
  obtain ⟨-, rfl⟩ := codecWrite_eq_ok.1 h
  exact ⟨rfl, rfl, rfl⟩

theorem linkRead_keepsObjects (addr : Word) : KeepsObjects (linkRead addr) := fun s t h => by
  obtain ⟨-, rfl⟩ := linkRead_eq_ok.1 h
  exact ⟨rfl, rfl, rfl⟩

theorem linkWrite_keepsObjects (addr : Word) : KeepsObjects (linkWrite addr) := fun s t h => by
  rw [linkWrite_eq] at h
  split at h <;> cases h
  exact ⟨rfl, rfl, rfl⟩

theorem crcCalc_keepsObjects (addr : Word) (len : DWord) : KeepsObjects (crcCalc addr len) := fun s t h => by
  rw [crcCalc_eq] at h
  split at h <;> cases h
  exact ⟨rfl, rfl, rfl⟩

theorem layerUp_keepsObjects : KeepsObjects fun s => .ok (layerUp s) := fun s t h => by
  cases h
  rcases layerUp_cases s with ⟨-, e⟩ | ⟨-, e⟩
  all_goals rw [e]; exact ⟨rfl, rfl, rfl⟩

theorem layerDown_keepsObjects : KeepsObjects fun s => .ok (layerDown s) := fun s t h => by
  cases h
  rcases layerDown_cases s with ⟨-, e⟩ | ⟨-, e⟩
  all_goals rw [e]; exact ⟨rfl, rfl, rfl⟩

theorem sendFailure_keepsObjects : KeepsObjects fun s => .ok (sendFailure s) := fun s t h => by
  cases h
  rcases sendFailure_cases s with ⟨-, e⟩ | ⟨-, e⟩
  all_goals rw [e]; exact ⟨rfl, rfl, rfl⟩

theorem send_keepsObjects (addr : Word) (len : DWord) : KeepsObjects (send addr len) := fun s t h => by
  rcases send_cases addr len s with ⟨-, e⟩ | ⟨-, -, e⟩ | ⟨-, -, e⟩ <;> rw [e] at h
  · cases h
  · cases h
    exact ⟨rfl, rfl, rfl⟩
  · rw [acceptSend_eq] at h
    split at h <;> cases h
    exact ⟨rfl, rfl, rfl⟩

theorem sendSuccess_keepsObjects : KeepsObjects sendSuccess := fun s t h => by
  rcases sendSuccess_cases s with ⟨-, e⟩ | ⟨-, e⟩ <;> rw [e] at h
  · rcases segmentDone_cases s with ⟨-, b, -, e'⟩ | ⟨-, r, -, e'⟩ | ⟨-, e'⟩ <;> rw [e'] at h <;> cases h
    · exact ⟨rfl, rfl, rfl⟩
    · exact ⟨rfl, rfl, rfl⟩
  · cases h
    exact ⟨rfl, rfl, rfl⟩

theorem appendSegment_keepsObjects (fin : Bool) (seq : Seq) (base : Nat) (p : List Byte) :
    KeepsObjects fun s => .ok (appendSegment s fin seq base p) := fun s t h => by
  cases h
  rcases appendSegment_cases s fin seq base p with ⟨-, e⟩ | ⟨-, -, e⟩ | ⟨-, -, e⟩
  all_goals rw [e]; exact ⟨rfl, rfl, rfl⟩

theorem reassemble_keepsObjects (hdr : Byte) (p : List Byte) : KeepsObjects fun s => .ok (reassemble hdr p s) :=
  fun s t h => by
  cases h
  rcases reassemble_cases hdr p s with ⟨-, e⟩ | ⟨-, -, e⟩ | ⟨-, -, -, e⟩ | ⟨-, -, -, e⟩ <;> rw [e]
  · exact appendSegment_keepsObjects _ _ _ _ s _ rfl
  · exact ⟨rfl, rfl, rfl⟩
  · exact ⟨rfl, rfl, rfl⟩
  · exact appendSegment_keepsObjects _ _ _ _ s _ rfl

theorem receive_keepsObjects (addr : Word) (len : DWord) : KeepsObjects (receive addr len) := fun s t h => by
  rcases receive_cases addr len s with ⟨-, e⟩ | ⟨-, -, e⟩ | ⟨-, -, -, e⟩ | ⟨-, -, -, e⟩ <;> rw [e] at h
  · cases h
    exact ⟨rfl, rfl, rfl⟩
  · cases h
    exact ⟨rfl, rfl, rfl⟩
  · cases h
  · exact reassemble_keepsObjects _ _ s t h

theorem iterDeref_keepsObjects : KeepsObjects iterDeref := fun s t h => by
  unfold iterDeref at h
  split at h
  · cases h
  · split at h <;> cases h
    exact ⟨rfl, rfl, rfl⟩

theorem iterInfo_keepsObjects : KeepsObjects iterInfo := fun s t h => by
  unfold iterInfo at h
  split at h <;> cases h
  exact ⟨rfl, rfl, rfl⟩

/-- The instructions that can write `HI`, `IT` or `ITS` (10_state.md R31 to R33). -/
def writesObjects : Instr → Bool
  | .ohParse _ _ _ => true
  | .oiInit _ _ => true
  | .oiInc => true
  | .oiPinc => true
  | .oiSwap => true
  | .sysReset => true
  | _ => false

theorem pseudocode_keepsObjects {i : Instr} (hi : writesObjects i = false) : KeepsObjects (pseudocode i) := by
  cases i with
  | ohParse | oiInit | oiInc | oiPinc | oiSwap | sysReset => cases hi
  | lhSet | lhGet | lhCtrl | lhChfcb | lhFunc | oiHasdata | oiCount | oiIsend | sysStat | sysFinfo =>
    intro s t h
    cases h
    exact ⟨rfl, rfl, rfl⟩
  | lhRead => exact linkRead_keepsObjects _
  | lhWrite => exact linkWrite_keepsObjects _
  | crcCalc => exact crcCalc_keepsObjects _ _
  | tlUp => exact layerUp_keepsObjects
  | tlDown => exact layerDown_keepsObjects
  | tlSend => exact send_keepsObjects _ _
  | tlRecv => exact receive_keepsObjects _ _
  | tlSucc => exact sendSuccess_keepsObjects
  | tlFail => exact sendFailure_keepsObjects
  | oiDeref => exact iterDeref_keepsObjects
  | oiInfo => exact iterInfo_keepsObjects
  | wrU8 | wrI8 | wrU16LE | wrU16BE | wrI16LE | wrI16BE | wrU32LE | wrU32BE | wrI32LE | wrI32BE | wrU48LE | wrU48BE
  | wrU64LE | wrU64BE | wrI64LE | wrI64BE | wrF32LE | wrF32BE | wrF64LE | wrF64BE =>
    exact codecWrite_keepsObjects _ _ _ _
  | _ => exact codecRead_keepsObjects _ _ _ _

/-! Forward only (R297) -/

/-- The second iterator is not before the first, in its object number and in its two addresses. -/
def Iter.Forward (i j : Iter) : Prop := i.n ≤ j.n ∧ i.pfxPos.toNat ≤ j.pfxPos.toNat ∧ i.pos.toNat ≤ j.pos.toNat

theorem Iter.Forward.of_eq {i j : Iter} (h : j = i) : i.Forward j := h ▸ ⟨le_rfl, le_rfl, le_rfl⟩

theorem Iter.le_nextPfxPos (i : Iter) : i.pfxPos.toNat ≤ i.nextPfxPos := by
  unfold Iter.nextPfxPos
  split <;> omega

/-- Before the end of a legal iterator the next cursor, and the index bytes behind it, fit in 64 bits. -/
theorem Iter.Legal.nextPfxPos_lt {i : Iter} (hl : i.Legal) (hn : i.n < i.h.count) : i.nextPfxPos + 4 < 2 ^ 64 := by
  have hcount := hl.header.count_le
  have hpos := hl.pfxPos_le
  have hpfx := i.h.pfx.bytes_le
  have hsize := i.h.osize.isLt
  unfold Iter.nextPfxPos
  split <;> omega

theorem Iter.Legal.advance_forward {s : State} {i j : Iter} (hl : i.Legal) (h : advance s i = .ok j) : i.Forward j := by
  rcases advance_cases s i with ⟨-, e⟩ | ⟨hn, e⟩ | ⟨-, e⟩ <;> rw [e] at h
  · cases h
  · obtain ⟨x, -, rfl⟩ := placeAt_eq_ok.1 h
    have hle := i.le_nextPfxPos
    have hroom := hl.nextPfxPos_lt (by omega)
    have hpfx := i.h.pfx.bytes_le
    have hpos := hl.pos_eq
    simp only [Iter.Forward, BitVec.toNat_ofNat]
    omega
  · cases h
    exact ⟨i.n.le_succ, le_rfl, le_rfl⟩

theorem pseudocode_forward {i : Instr} {s t : State} (hl : s.it.Legal) (h : pseudocode i s = .ok t)
    (hswap : i ≠ .oiSwap) (hreset : i ≠ .sysReset) (hinit : ∀ hasdata addr, i ≠ .oiInit hasdata addr) :
    s.it.Forward t.it := by
  cases i
  case ohParse otype osize addr =>
    change headerParse otype osize addr s = .ok t at h
    rw [headerParse_eq_map] at h
    cases hp : parseHeader otype osize addr s <;> rw [hp] at h <;> cases h
    exact .of_eq rfl
  case oiInit => exact absurd rfl (hinit _ _)
  case oiSwap => exact absurd rfl hswap
  case sysReset => exact absurd rfl hreset
  case oiInc =>
    change iterInc s = .ok t at h
    rcases iterInc_cases s with ⟨r, -, e⟩ | ⟨j, hj, e⟩ <;> rw [e] at h <;> cases h
    exact hl.advance_forward hj
  case oiPinc =>
    change iterPostInc s = .ok t at h
    rcases iterPostInc_cases s with ⟨r, -, e⟩ | ⟨j, hj, e⟩ <;> rw [e] at h <;> cases h
    exact hl.advance_forward hj
  all_goals
    obtain ⟨-, hit, -⟩ := pseudocode_keepsObjects rfl s t h
    exact .of_eq hit

/-- Settles O46: a refused command and a raise leave `IT` alone, and what a pseudocode makes of it is not before it
(`pseudocode_forward`): only the two advances write it, and their cursor does not wrap. -/
theorem iteratorOnlyMovesForward : Obligations.IteratorOnlyMovesForward := by
  intro i s t hl h hswap hreset hinit
  rcases exec_next h with ⟨-, hok⟩ | ⟨-, -, rfl⟩ | ⟨-, -, r, -, rfl⟩ | ⟨-, -, hok⟩
  · exact pseudocode_forward hl.it hok hswap hreset hinit
  · exact Iter.Forward.of_eq rfl
  · exact Iter.Forward.of_eq rfl
  · exact pseudocode_forward hl.it hok hswap hreset hinit

end Sys2Proof.Machine
end

section
/-! PROOFS about the system unit (44_system.md): the number that the status word spells, and from it the rules of
`SYS.STAT` and `SYS.FINFO`. -/

namespace Sys2Proof.Machine

open Sys2Proof Sys2Proof.Claims

/-! The status word (R332) -/

theorem Tls.toNat_code (t : Tls) : t.code.toNat = tlsNumber t := by cases t <;> rfl

theorem State.statusWord_eq (s : State) : s.statusWord = BitVec.ofNat 64 (tlsNumber s.tls + s.halt.toNat * 4 +
    s.rx.active.toNat * 8 + s.fsr.fcode.toNat * 2 ^ 8 + s.fsr.fopc.toNat * 2 ^ 16 + s.tx.seq.toNat * 2 ^ 24 +
    s.rx.seq.toNat * 2 ^ 32) := by
  have hnumber : s.statusWord.toNat = tlsNumber s.tls + s.halt.toNat * 4 + s.rx.active.toNat * 8 +
      s.fsr.fcode.toNat * 2 ^ 8 + s.fsr.fopc.toNat * 2 ^ 16 + s.tx.seq.toNat * 2 ^ 24 + s.rx.seq.toNat * 2 ^ 32 := by
    simp only [State.statusWord, toNat_append_add, Tls.toNat_code, BitVec.toNat_zero, BitVec.toNat_ofBool]
    ring
  rw [← setWidth_eq_ofNat hnumber, BitVec.setWidth_eq]

/-! The two readings (R332, R334) -/

theorem sysStat_answers (s : State) : Answers .sysStat s s.statusWord := exec_sysStat s

theorem sysFinfo_answers (s : State) : Answers .sysFinfo s s.fsr.finfo := exec_sysFinfo s

/-- Settles O47: neither instruction looks at `HALT` (`exec_sysStat`, `exec_sysFinfo`), and the fields of the status
word stand at the places that the statement's number gives them (`State.statusWord_eq`). -/
theorem statusAndFaultInformation : Obligations.StatusAndFaultInformation :=
  ⟨decode_of_noArg (fun _ _ => .sysStat) decode_sysStat (by decide),
    decode_of_noArg (fun _ _ => .sysFinfo) decode_sysFinfo (by decide),
    fun s => ⟨s.statusWord_eq ▸ sysStat_answers s, sysFinfo_answers s⟩⟩

end Sys2Proof.Machine
end

section
/-! PROOFS about the exceptions (60_exceptions.md R346, R347): a word that no row of the opcode table selects is no
instruction, and what a step makes of it; what the halt refuses. -/

namespace Sys2Proof.Machine

open Sys2Proof Sys2Proof.Claims

/-! A word with a meaning is in the opcode table (30_encoding.md R98) -/

/-- A row's mask keeps the `OPC` byte and the `ARG` bits that the format does not name; where those bits are 0 it leaves
the opcode alone. -/
theorem and_mask_eq_pattern {cw : Word} {named : BitVec 24} (h : argField cw &&& ~~~named = 0) :
    cw &&& (0xFF#8 ++ ~~~named) = opcodeField cw ++ 0#24 := by
  conv_lhs => rw [word_eq cw, BitVec.and_append, h]
  exact congrArg (· ++ 0#24) BitVec.and_allOnes

/-- The format that the decoder checks for one opcode is the format of that opcode's row. -/
theorem selected_of_withArg {cw : Word} {opc : Nat} {named : BitVec 24} {i j : Instr}
    (hopc : (opcodeField cw).toNat = opc) (h : withArg named cw i = .ok j)
    (hrow : ∃ r ∈ opcodeTable, r.mask = 0xFF#8 ++ ~~~named ∧ r.pattern = BitVec.ofNat 8 opc ++ 0#24) :
    ∃ r ∈ opcodeTable, cw &&& r.mask = r.pattern := by
  obtain ⟨r, hr, hmask, hpattern⟩ := hrow
  refine ⟨r, hr, ?_⟩
  rw [hmask, hpattern, and_mask_eq_pattern (withArg_eq_ok.1 h).1, ← hopc, BitVec.ofNat_toNat, BitVec.setWidth_eq]

/-- The decoder answers an instruction only in the branch of an opcode of the table, whose format it checks there; the
branch of every other opcode (`h_68`) is an error. -/
theorem selected_of_decode {f : Frame} {i : Instr} (h : decode f = .ok i) :
    ∃ r ∈ opcodeTable, f.cw &&& r.mask = r.pattern := by
  unfold decode at h
  split at h
  case h_68 => cases h
  all_goals
    rename_i hopc
    exact selected_of_withArg hopc h (by decide)

theorem decode_of_not_selected {f : Frame} (h : ∀ r ∈ opcodeTable, f.cw &&& r.mask ≠ r.pattern) :
    ∃ e, decode f = .error e := by
  cases hd : decode f with
  | error e => exact ⟨e, rfl⟩
  | ok i =>
    obtain ⟨r, hr, hsel⟩ := selected_of_decode hd
    exact absurd hsel (h r hr)

/-! The step of a command -/

theorem step_of_command {s : State} {f : Frame} {rest : List HostAct} (h : s.inp = .command f :: rest) :
    step s = runFrame f { s with inp := rest, rsp := none } := runNext_act h

/-- Settles O5: such a word decodes to no instruction (`decode_of_not_selected`), and the illegal command of a running
DCB is a raise, which overwrites the response that the step took off the port. -/
theorem illegalWordRaisesIllegalCommand : Obligations.IllegalWordRaisesIllegalCommand := by
  intro s f rest hinp hrow hs
  obtain ⟨e, hd⟩ := decode_of_not_selected hrow
  calc step s
    _ = illegalCommand f.cw { s with inp := rest, rsp := none } := by rw [step_of_command hinp, runFrame_illegal hd]
    _ = .next (State.raise { s with inp := rest, rsp := none } (opcodeField f.cw) ⟨.illegalCmd, f.cw.setWidth 64⟩) :=
      illegalCommand_running hs
    _ = .next (raised { s with inp := rest } 0x06 (opcodeField f.cw) (f.cw.setWidth 64)) := by
      rw [State.raise_eq_raised]; rfl

/-! The halt -/

theorem exec_halted {i : Instr} {s : State} (hs : s.halt = true) (hi : ¬isSystem i) :
    exec i s = .next s.refuseHalted := (exec_command hi s).trans (runCommand_halted hs)

theorem runFrame_halted {f : Frame} {s : State} (hs : s.halt = true) (hf : ∀ i, decode f = .ok i → ¬isSystem i) :
    runFrame f s = .next s.refuseHalted := by
  cases hd : decode f with
  | ok i => rw [runFrame_decoded hd, exec_halted hs (hf i hd)]
  | error e => rw [runFrame_illegal hd, illegalCommand_halted hs]

/-- Settles O7: the frame of every command but the system ones looks at `HALT` first (`exec_halted`), that of an illegal
word too (`runFrame_halted`); `SYS.RESET` writes the reset value of `HALT` in any state. -/
theorem haltedCommandsAreRefused : Obligations.HaltedCommandsAreRefused := by
  refine ⟨fun s f rest hinp hs hf => ?_, fun i s hs hi => exec_halted hs hi,
    fun s => ⟨s.resetRegisters.respond 0, exec_sysReset s, rfl⟩⟩
  rw [step_of_command hinp]
  exact runFrame_halted hs hf

end Sys2Proof.Machine
end

section
/-! PROOFS about the command word (30_encoding.md R92 to R98): decoding undoes encoding, and the decoder's branches are
the rows of the opcode table. -/

namespace Sys2Proof.Machine

open Sys2Proof Sys2Proof.Claims

/-! Decoding undoes encoding (R109) -/

/-- An instruction without `ARG` fields: its word is its opcode and zeros, so the decoder's check of `ARG` passes. -/
theorem decode_encode_of_noArg {i : Instr} (harg : i.arg = 0)
    (hd : opcodeField (encode i).cw = i.opcode → decode (encode i) = noArg (encode i).cw i) :
    decode (encode i) = .ok i := by
  have hword : (encode i).cw = i.opcode ++ i.arg := rfl
  rw [hd (by rw [hword, opcodeField_append]), noArg_eq_ok, hword, argField_append]
  exact ⟨harg, rfl⟩

/-- Settles O1: five instructions have fields in `ARG`, which are read back from their places; every other one has its
operands in `OPA` and `OPB` alone (`decode_encode_of_noArg`). -/
theorem decodeOfEncodeIsIdentity : Obligations.DecodeOfEncodeIsIdentity := by
  intro i
  cases i with
  | lhSet => exact decode_of_lhSet_word rfl rfl
  | lhCtrl => exact decode_of_lhCtrl_word rfl
  | lhChfcb fcb => cases fcb <;> exact plainWord_lhChfcb (by decide) _ _
  | ohParse => exact decode_of_ohParse_word rfl rfl
  | oiInit hasdata =>
    cases hasdata
    · exact decode_of_oiInit_word (cw := (Instr.oiInit false 0).word) 0 (by decide)
    · exact decode_of_oiInit_word (cw := (Instr.oiInit true 0).word) 0 (by decide)
  | _ => exact decode_encode_of_noArg rfl fun hopc => by unfold decode; rw [hopc]; rfl

/-! The rows of the opcode table (R98) -/

/-- No two rows have the same opcode. -/
theorem eq_of_opcodeField_pattern {r q : Row} (hr : r ∈ opcodeTable) (hq : q ∈ opcodeTable)
    (h : opcodeField r.pattern = opcodeField q.pattern) : r = q :=
  List.inj_on_of_nodup_map (f := fun r : Row => opcodeField r.pattern) (by decide) hr hq h

theorem opcodeField_and (v w : Word) : opcodeField (v &&& w) = opcodeField v &&& opcodeField w :=
  BitVec.extractLsb'_and

theorem argField_and (v w : Word) : argField (v &&& w) = argField v &&& argField w := BitVec.extractLsb'_and

/-- Every row's mask keeps the whole opcode, so a row selects words of its own opcode only. -/
theorem opcodeField_of_selected {r : Row} {cw : Word} (hr : r ∈ opcodeTable) (h : cw &&& r.mask = r.pattern) :
    opcodeField cw = opcodeField r.pattern := by
  have hmask : ∀ r ∈ opcodeTable, opcodeField r.mask = BitVec.allOnes 8 := by decide
  rw [← h, opcodeField_and, hmask r hr, BitVec.and_allOnes]

/-! A selected word is an instruction -/

theorem withArg_eq_error {named : BitVec 24} {cw : Word} {i : Instr} {e : DecodeError} :
    withArg named cw i = .error e ↔ argField cw &&& ~~~named ≠ 0 ∧ e = .reservedArgBit := by
  unfold withArg
  split <;> simp_all [eq_comm]

/-- Only the decoder's last branch (`h_68`) finds the opcode unassigned, and it is reached by the opcode alone. -/
theorem unassigned_of_opcode {f g : Frame} (h : decode f = .error .unassignedOpcode)
    (hopc : opcodeField g.cw = opcodeField f.cw) : decode g = .error .unassignedOpcode := by
  unfold decode at h
  split at h
  case h_68 =>
    unfold decode
    rw [hopc]
    split
    case h_68 => rfl
    all_goals contradiction
  all_goals cases (withArg_eq_error.1 h).2

/-- In the branch of one opcode a word that a row selects passes the check of `ARG`: the `ARG` bits that the row's mask
keeps, and its pattern has 0, are those that the branch does not name. -/
theorem withArg_of_selected {r : Row} {cw : Word} {opc : Nat} {named : BitVec 24} {i : Instr} {e : DecodeError}
    (hr : r ∈ opcodeTable) (h : cw &&& r.mask = r.pattern) (hopc : (opcodeField cw).toNat = opc)
    (hrow : ∀ r ∈ opcodeTable, (opcodeField r.pattern).toNat = opc →
      argField r.mask = ~~~named ∧ argField r.pattern = 0) : withArg named cw i ≠ .error e := by
  obtain ⟨hmask, hpattern⟩ := hrow r hr (by rw [← opcodeField_of_selected hr h, hopc])
  intro he
  obtain ⟨harg, -⟩ := withArg_eq_error.1 he
  rw [← hmask, ← argField_and, h, hpattern] at harg
  exact harg rfl

theorem decode_ok_of_selected {r : Row} {f : Frame} (hr : r ∈ opcodeTable) (h : f.cw &&& r.mask = r.pattern) :
    ∃ i, decode f = .ok i := by
  cases hd : decode f with
  | ok i => exact ⟨i, rfl⟩
  | error e =>
    exfalso
    cases e with
    | unassignedOpcode =>
      have hassigned : ∀ r ∈ opcodeTable, decode ⟨r.pattern, 0, 0⟩ ≠ .error .unassignedOpcode := by decide
      exact hassigned r hr (unassigned_of_opcode hd (opcodeField_of_selected hr h).symm)
    | reservedArgBit =>
      unfold decode at hd
      split at hd
      case h_68 => cases hd
      all_goals
        rename_i hopc
        exact withArg_of_selected hr h hopc (by decide) hd

/-! An instruction's own word -/

/-- The row of an instruction's opcode carries its mnemonic. -/
theorem mnemonic_of_opcode {r : Row} {i : Instr} (hr : r ∈ opcodeTable) (h : opcodeField r.pattern = i.opcode) :
    r.mnemonic = i.mnemonic := by
  revert r
  cases i <;> dsimp only [Instr.opcode, Instr.mnemonic] <;> decide

/-- A word of a branch is the instruction's own when the fields, put back, give the `ARG` they were taken from. -/
theorem word_of_withArg {cw : Word} {opc : Nat} {named : BitVec 24} {i j : Instr}
    (hopc : (opcodeField cw).toNat = opc) (h : withArg named cw i = .ok j) (hi : i.opcode = BitVec.ofNat 8 opc)
    (harg : argField cw &&& ~~~named = 0 → i.arg = argField cw) : j.word = cw := by
  obtain ⟨hreserved, rfl⟩ := withArg_eq_ok.1 h
  rw [Instr.word, hi, harg hreserved, ← hopc, BitVec.ofNat_toNat, BitVec.setWidth_eq, ← word_eq]

/-- What an `ARG` field spells when the bits that its format does not name are 0. -/
theorem toNat_argField_le {cw : Word} {named : BitVec 24} (h : argField cw &&& ~~~named = 0) :
    (argField cw).toNat ≤ named.toNat := by
  have hsplit : argField cw = argField cw &&& named :=
    calc argField cw = argField cw &&& (named ||| ~~~named) := by rw [BitVec.or_not_self, BitVec.and_allOnes]
      _ = argField cw &&& named ||| argField cw &&& ~~~named := BitVec.and_or_distrib_left
      _ = argField cw &&& named := by rw [h]; exact BitVec.or_zero
  rw [hsplit, BitVec.toNat_and]
  exact Nat.and_le_right

theorem toNat_argField (cw : Word) : (argField cw).toNat = cw.toNat % 2 ^ 24 := by
  rw [argField, BitVec.extractLsb'_toNat, Nat.shiftRight_zero]

theorem toNat_ofBool_getLsbD (cw : Word) (k : Nat) : (BitVec.ofBool (cw.getLsbD k)).toNat = cw.toNat / 2 ^ k % 2 := by
  rw [BitVec.toNat_ofBool, BitVec.getLsbD, Nat.toNat_testBit]

@[simp] theorem ObjType.bit_ofBit (b : Bool) : (ObjType.ofBit b).bit = b := by cases b <;> rfl

/-- An instruction's word is the one it was decoded from. In five branches (`h_41` to `h_56`) the fields make up the
whole `ARG`, because the bits above them are 0; in the others `ARG` is 0. -/
theorem word_of_decode {f : Frame} {i : Instr} (h : decode f = .ok i) : i.word = f.cw := by
  unfold decode at h
  split at h
  case h_68 => cases h
  case h_41 | h_45 | h_46 | h_55 | h_56 =>
    rename_i hopc
    refine word_of_withArg hopc h rfl fun hreserved => BitVec.eq_of_toNat_eq ?_
    have hle := toNat_argField_le hreserved
    rw [toNat_argField] at hle ⊢
    simp only [BitVec.toNat_ofNat, Instr.arg, ObjType.bit_ofBit, toNat_append_add, toNat_ofBool_getLsbD,
      BitVec.extractLsb'_toNat, Nat.shiftRight_eq_div_pow] at hle ⊢
    omega
  all_goals
    rename_i hopc
    exact word_of_withArg hopc h rfl fun _ => (noArg_eq_ok.1 h).1.symm

/-- Settles O2: a selected word passes its branch's checks (`decode_ok_of_selected`), rows are told apart by their opcodes
(`eq_of_opcodeField_pattern`), and a decoded word is its instruction's own (`word_of_decode`). -/
theorem decodeAcceptsExactlyTheOpcodeTable : Obligations.DecodeAcceptsExactlyTheOpcodeTable := by
  refine fun f => ⟨⟨fun ⟨i, hi⟩ => selected_of_decode hi, fun ⟨r, hr, h⟩ => decode_ok_of_selected hr h⟩,
    fun r hr q hq hr' hq' => ?disjoint, fun i hi => ⟨word_of_decode hi, ?row⟩⟩
  case disjoint =>
    exact eq_of_opcodeField_pattern hr hq ((opcodeField_of_selected hr hr').symm.trans (opcodeField_of_selected hq hq'))
  case row =>
    obtain ⟨r, hr, h⟩ := selected_of_decode hi
    have hopc : opcodeField f.cw = i.opcode := by rw [← word_of_decode hi, Instr.word, opcodeField_append]
    exact ⟨r, hr, h, mnemonic_of_opcode hr ((opcodeField_of_selected hr h).symm.trans hopc)⟩

end Sys2Proof.Machine
end

section
/-! PROOFS about every command and every step: one inversion lemma for all that a command can do. A command is refused,
or raises, or succeeds; a success has one of the effects listed in `Effect`, each of which writes what its rule names
and leaves every other register, both memories and the parameters alone. -/

namespace Sys2Proof.Machine

open Sys2Proof Sys2Proof.Claims

/-! What a success can do -/

/-- The 20 writes and `LH.WRITE`: what the rule of `BUF` lets write it (20_memory.md R61). -/
def storesBytes (i : Instr) : Prop := isWrite i ∨ ∃ addr, i = .lhWrite addr

/-- What the instruction, completing with OK, makes of the state `s`. -/
inductive Effect (s : State) : Instr → State → Prop
  /-- Nothing is written; this is also how a transport command is ignored. -/
  | answer {i : Instr} (v : DWord) : Effect s i (s.respond v)
  | store {i : Instr} {addr : Nat} {bytes : List Byte} (v : DWord) (hi : storesBytes i)
      (hin : addr + bytes.length ≤ s.cfg.bufSize) :
      Effect s i ({ s with buf := s.buf.writeBytes addr bytes }.respond v)
  | lhSet (len ctrl : Byte) (dest src : Half) (h : LinkHeader) :
      Effect s (.lhSet len ctrl dest src) { s with lh := h }.respondHeader
  | lhRead (addr : Word) (h : LinkHeader) : Effect s (.lhRead addr) { s with lh := h }.respondHeader
  | lhChfcb (fcb : Bool) (ctrl : Byte) (v : DWord) :
      Effect s (.lhChfcb fcb) ({ s with lh := { s.lh with ctrl := ctrl } }.respond v)
  | layerUp (htls : s.tls = .closed) : Effect s .tlUp ({ s with tls := .ready }.tlEmit .upperLayerUp)
  | layerDown : Effect s .tlDown ({ s with rx := s.rx.stop, tls := .closed }.tlEmit .upperLayerDown)
  | sendFailure (htls : s.tls = .sending) : Effect s .tlFail ({ s with tls := .ready }.tlEmit .upperSendFailure)
  | sendStart {addr : Word} {len : DWord} (tpdu : List Byte) (hpos : 1 ≤ len.toNat)
      (hfrag : len.toNat ≤ s.cfg.fragSize) (hin : addr.toNat + len.toNat ≤ s.cfg.bufSize) :
      Effect s (.tlSend addr len)
        ({ s with tx := { s.tx with base := addr, len := len.toNat, sent := 0 }, tls := .sending }.tlEmit
          (.lowerSend tpdu))
  | sendNext {n : Nat} (tpdu : List Byte) (htls : s.tls = .sending) (hmore : s.tx.sent + n < s.tx.len) :
      Effect s .tlSucc ({ s with tx := s.tx.advanced n }.tlEmit (.lowerSend tpdu))
  | sendDone {n : Nat} (htls : s.tls = .sending) (hlast : s.tx.len ≤ s.tx.sent + n) (hsize : n ≤ s.tx.len - s.tx.sent) :
      Effect s .tlSucc ({ s with tx := s.tx.advanced n, tls := .ready }.tlEmit .upperSendSuccess)
  | receiveStop (addr : Word) (len : DWord) : Effect s (.tlRecv addr len) { s with rx := s.rx.stop }.tlHandled
  | receiveMore (addr : Word) (len : DWord) {base : Nat} {p : List Byte} (seq : Seq) (hpos : 1 ≤ p.length)
      (hin : base + p.length ≤ s.cfg.fragSize) :
      Effect s (.tlRecv addr len)
        { s with rx := ⟨s.rx.buf.writeBytes base p, base + p.length, seq, true⟩ }.tlHandled
  | receiveLast (addr : Word) (len : DWord) {base : Nat} {p : List Byte} (seq : Seq) (apdu : List Byte)
      (hin : base + p.length ≤ s.cfg.fragSize) :
      Effect s (.tlRecv addr len)
        ({ s with rx := ⟨s.rx.buf.writeBytes base p, 0, seq, false⟩ }.tlEmit (.upperReceive apdu))
  | parse {otype : ObjType} {osize : Half} {addr : Word} {h : HeaderInfo} (hh : parseHeader otype osize addr s = .ok h) :
      Effect s (.ohParse otype osize addr) ({ s with hi := h }.respond h.pack)
  | iterInit {hasdata : Bool} {addr : Word} {i : Iter} (hok : initRefused s.hi hasdata = false)
      (hi : startIter s s.hi hasdata addr = .ok i) :
      Effect s (.oiInit hasdata addr) ({ s with it := i }.respond (BitVec.ofNat 64 s.hi.count))
  | iterInc {i : Iter} (hi : advance s s.it = .ok i) : Effect s .oiInc ({ s with it := i }.respond (flag64 i.atEnd))
  | iterPostInc {i : Iter} (hi : advance s s.it = .ok i) :
      Effect s .oiPinc ({ s with it := i, its := s.it }.respond (flag64 i.atEnd))
  | iterSwap : Effect s .oiSwap ({ s with it := s.its, its := s.it }.respond 0)
  | reset : Effect s .sysReset (s.resetRegisters.respond 0)

section
variable {i : Instr} {s t : State}

theorem codecRead_effect {w : Nat} {o : ByteOrder} {ext : Nat → DWord} {addr : Word}
    (h : codecRead w o ext addr s = .ok t) : Effect s i t := by
  obtain ⟨-, rfl⟩ := codecRead_eq_ok.1 h
  exact .answer _

theorem codecWrite_effect {w : Nat} {o : ByteOrder} {addr : Word} {v : Nat} (hw : w ≠ 0) (hi : isWrite i)
    (h : codecWrite w o addr v s = .ok t) : Effect s i t := by
  obtain ⟨hin, rfl⟩ := codecWrite_eq_ok.1 h
  exact .store 0 (.inl hi) (by rw [ByteOrder.length_bytes]; omega)

theorem linkWrite_effect {addr : Word} (h : linkWrite addr s = .ok t) : Effect s (.lhWrite addr) t := by
  rw [linkWrite_eq] at h
  split at h <;> cases h
  exact .store _ (.inr ⟨addr, rfl⟩) (by simpa)

theorem crcCalc_effect {addr : Word} {len : DWord} (h : crcCalc addr len s = .ok t) : Effect s i t := by
  rw [crcCalc_eq] at h
  split at h <;> cases h
  exact .answer _

theorem layerUp_effect (s : State) : Effect s .tlUp (layerUp s) := by
  rcases layerUp_cases s with ⟨ht, e⟩ | ⟨-, e⟩ <;> rw [e]
  · exact .layerUp ht
  · exact .answer _

theorem layerDown_effect (s : State) : Effect s .tlDown (layerDown s) := by
  rcases layerDown_cases s with ⟨-, e⟩ | ⟨-, e⟩ <;> rw [e]
  · exact .answer _
  · exact .layerDown

theorem sendFailure_effect (s : State) : Effect s .tlFail (sendFailure s) := by
  rcases sendFailure_cases s with ⟨ht, e⟩ | ⟨-, e⟩ <;> rw [e]
  · exact .sendFailure ht
  · exact .answer _

theorem send_effect {addr : Word} {len : DWord} (h : send addr len s = .ok t) : Effect s (.tlSend addr len) t := by
  rcases send_cases addr len s with ⟨-, e⟩ | ⟨-, -, e⟩ | ⟨hlen, -, e⟩ <;> rw [e] at h
  · cases h
  · cases h
    exact .answer _
  · obtain ⟨hne, hfrag⟩ := not_or.1 hlen
    have hpos : len.toNat ≠ 0 := fun h0 => hne (BitVec.eq_of_toNat_eq h0)
    rw [acceptSend_eq] at h
    split at h <;> cases h
    exact .sendStart _ (by omega) (by omega) ‹_›

theorem sendSuccess_effect (h : sendSuccess s = .ok t) : Effect s .tlSucc t := by
  rcases sendSuccess_cases s with ⟨ht, e⟩ | ⟨-, e⟩ <;> rw [e] at h
  · rcases segmentDone_cases s with ⟨hmore, b, -, e'⟩ | ⟨-, r, -, e'⟩ | ⟨hlast, e'⟩ <;> rw [e'] at h <;> cases h
    · exact .sendNext b ht hmore
    · exact .sendDone ht hlast (segmentSize_le ..)
  · cases h
    exact .answer _

theorem appendSegment_effect (s : State) (addr : Word) (len : DWord) (fin : Bool) (seq : Seq) (base : Nat)
    {p : List Byte} (hpos : 1 ≤ p.length) : Effect s (.tlRecv addr len) (appendSegment s fin seq base p) := by
  rcases appendSegment_cases s fin seq base p with ⟨-, e⟩ | ⟨hin, -, e⟩ | ⟨hin, -, e⟩ <;> rw [e]
  · exact .receiveStop addr len
  · exact .receiveMore addr len seq hpos hin
  · exact .receiveLast addr len seq _ hin

theorem receive_effect {addr : Word} {len : DWord} (h : receive addr len s = .ok t) :
    Effect s (.tlRecv addr len) t := by
  rcases receive_cases addr len s with ⟨-, e⟩ | ⟨-, -, e⟩ | ⟨-, -, -, e⟩ | ⟨-, hlen, -, e⟩ <;> rw [e] at h <;> cases h
  · exact .answer _
  · exact .answer _
  · have hpos : 1 ≤ (s.buf.readBytes (addr.toNat + 1) (len.toNat - 1)).length := by
      rw [Memory.length_readBytes]; omega
    rcases reassemble_cases (s.buf.read addr.toNat) (s.buf.readBytes (addr.toNat + 1) (len.toNat - 1)) s with
      ⟨-, e⟩ | ⟨-, -, e⟩ | ⟨-, -, -, e⟩ | ⟨-, -, -, e⟩ <;> rw [e]
    · exact appendSegment_effect _ _ _ _ _ _ hpos
    · exact .answer _
    · exact .receiveStop addr len
    · exact appendSegment_effect _ _ _ _ _ _ hpos

theorem headerParse_effect {otype : ObjType} {osize : Half} {addr : Word} (h : headerParse otype osize addr s = .ok t) :
    Effect s (.ohParse otype osize addr) t := by
  rw [headerParse_eq_map] at h
  cases hp : parseHeader otype osize addr s <;> rw [hp] at h <;> cases h
  exact .parse hp

theorem iterInit_effect {hasdata : Bool} {addr : Word} (h : iterInit hasdata addr s = .ok t) :
    Effect s (.oiInit hasdata addr) t := by
  rcases iterInit_cases hasdata addr s with ⟨-, e⟩ | ⟨-, r, -, e⟩ | ⟨hok, i, hi, e⟩ <;> rw [e] at h <;> cases h
  exact .iterInit hok hi

theorem iterDeref_effect (h : iterDeref s = .ok t) : Effect s i t := by
  unfold iterDeref at h
  split at h
  · cases h
  · split at h <;> cases h
    exact .answer _

theorem iterInfo_effect (h : iterInfo s = .ok t) : Effect s i t := by
  unfold iterInfo at h
  split at h <;> cases h
  exact .answer _

theorem iterInc_effect (h : iterInc s = .ok t) : Effect s .oiInc t := by
  rcases iterInc_cases s with ⟨r, -, e⟩ | ⟨j, hj, e⟩ <;> rw [e] at h <;> cases h
  exact .iterInc hj

theorem iterPostInc_effect (h : iterPostInc s = .ok t) : Effect s .oiPinc t := by
  rcases iterPostInc_cases s with ⟨r, -, e⟩ | ⟨j, hj, e⟩ <;> rw [e] at h <;> cases h
  exact .iterPostInc hj

theorem pseudocode_effect (h : pseudocode i s = .ok t) : Effect s i t := by
  cases i with
  | lhSet => cases h; exact .lhSet ..
  | lhRead =>
    obtain ⟨-, rfl⟩ := linkRead_eq_ok.1 h
    exact .lhRead ..
  | lhWrite => exact linkWrite_effect h
  | lhChfcb => cases h; exact .lhChfcb ..
  | crcCalc => exact crcCalc_effect h
  | tlUp => cases h; exact layerUp_effect s
  | tlDown => cases h; exact layerDown_effect s
  | tlSend => exact send_effect h
  | tlRecv => exact receive_effect h
  | tlSucc => exact sendSuccess_effect h
  | tlFail => cases h; exact sendFailure_effect s
  | ohParse => exact headerParse_effect h
  | oiInit => exact iterInit_effect h
  | oiDeref => exact iterDeref_effect h
  | oiInfo => exact iterInfo_effect h
  | oiInc => exact iterInc_effect h
  | oiPinc => exact iterPostInc_effect h
  | oiSwap => cases h; exact .iterSwap
  | sysReset => cases h; exact .reset
  | lhGet | lhCtrl | lhFunc | oiHasdata | oiCount | oiIsend | sysStat | sysFinfo => cases h; exact .answer _
  | wrU8 | wrI8 | wrU16LE | wrU16BE | wrI16LE | wrI16BE | wrU32LE | wrU32BE | wrI32LE | wrI32BE | wrU48LE | wrU48BE
  | wrU64LE | wrU64BE | wrI64LE | wrI64BE | wrF32LE | wrF32BE | wrF64LE | wrF64BE =>
    exact codecWrite_effect (by decide) (by simp [isWrite, rowsWrites, Instr.mnemonic]) h
  | _ => exact codecRead_effect h

end

/-! What every effect has in common -/

section
variable {i : Instr} {s t : State}

/-- A success answers OK, with at most one event, which only a transport command has. -/
theorem Effect.rsp_eq (h : Effect s i t) :
    ∃ v ev, t.rsp = some ⟨statusOk, v, ev⟩ ∧ ev.length ≤ 1 ∧ (ev ≠ [] → isTransport i) := by
  cases h
  case layerUp | layerDown | sendFailure | sendStart | sendNext | sendDone | receiveLast =>
    exact ⟨_, _, rfl, le_rfl, fun _ => by simp [isTransport, rowsTransport, Instr.mnemonic]⟩
  all_goals exact ⟨_, _, rfl, Nat.zero_le 1, fun h => absurd rfl h⟩

theorem Effect.status (h : Effect s i t) : t.status = some 0x00 := by
  obtain ⟨v, ev, hrsp, -⟩ := h.rsp_eq
  exact State.status_of hrsp

/-- The fault registers are the raise's and reset's to write. -/
theorem Effect.faults_eq (h : Effect s i t) (hi : i ≠ .sysReset) : t.halt = s.halt ∧ t.fsr = s.fsr := by
  cases h
  case reset => exact absurd rfl hi
  all_goals exact ⟨rfl, rfl⟩

theorem Effect.ports_eq (h : Effect s i t) : t.cfg = s.cfg ∧ t.inp = s.inp := by cases h <;> exact ⟨rfl, rfl⟩

end

/-! Every command -/

/-- Every command in every state ends (00_scope.md R8). -/
theorem exec_total (i : Instr) (s : State) : ∃ t, exec i s = .next t := by
  obtain ⟨d, r, h⟩ := exec_settles (c := s.cfg) (d := s.toDcb) i
  exact ⟨_, h s.inp s.rsp⟩

/-- Everything a command can do: the refusal while halted, a raise, or an effect. -/
theorem exec_cases {i : Instr} {s t : State} (h : exec i s = .next t) :
    (s.halt = true ∧ ¬isSystem i ∧ t = s.refuseHalted) ∨
    (s.halt = false ∧ ∃ r, pseudocode i s = .error r ∧ t = s.raise i.opcode r) ∨
    ((isSystem i ∨ s.halt = false) ∧ Effect s i t) := by
  rcases exec_next h with ⟨hi, hok⟩ | ⟨hi, hs, rfl⟩ | ⟨-, hs, r, hr, rfl⟩ | ⟨-, hs, hok⟩
  · exact .inr (.inr ⟨.inl hi, pseudocode_effect hok⟩)
  · exact .inl ⟨hs, hi, rfl⟩
  · exact .inr (.inl ⟨hs, r, hr, rfl⟩)
  · exact .inr (.inr ⟨.inr hs, pseudocode_effect hok⟩)

/-! Every step -/

/-- What a property of the state needs so that no step breaks it: one premise for each thing that a step can do. -/
structure StepInvariant (P : State → Prop) : Prop where
  /-- The step takes an action off the list and the old response off the port. -/
  ports : ∀ s inp, P s → P { s with inp := inp, rsp := none }
  store : ∀ s addr bytes, P s → addr + bytes.length ≤ s.cfg.bufSize →
    P { s with buf := s.buf.writeBytes addr bytes }
  refused : ∀ s, P s → P s.refuseHalted
  raised : ∀ s opc r, P s → P (s.raise opc r)
  effect : ∀ s i t, P s → Effect s i t → P t

section
variable {P : State → Prop} {s t : State}

theorem StepInvariant.of_exec (hP : StepInvariant P) {i : Instr} (hs : P s) (h : exec i s = .next t) : P t := by
  rcases exec_cases h with ⟨-, -, rfl⟩ | ⟨-, r, -, rfl⟩ | ⟨-, he⟩
  · exact hP.refused s hs
  · exact hP.raised s _ r hs
  · exact hP.effect s i t hs he

theorem StepInvariant.of_runFrame (hP : StepInvariant P) {f : Frame} (hs : P s) (h : runFrame f s = .next t) : P t := by
  cases hd : decode f with
  | ok i => exact hP.of_exec hs ((runFrame_decoded hd s).symm.trans h)
  | error e =>
    rcases runCommand_next ((runFrame_illegal hd s).symm.trans h) with ⟨-, rfl⟩ | ⟨-, r, -, rfl⟩ | ⟨-, hok⟩
    · exact hP.refused s hs
    · exact hP.raised s _ r hs
    · cases hok

theorem StepInvariant.of_hostStore (hP : StepInvariant P) {addr : Nat} {bytes : List Byte} (hs : P s)
    (h : hostStore addr bytes s = .next t) : P t := by
  rw [hostStore_eq] at h
  split at h <;> cases h
  rename_i hin
  rcases hin with hnil | hin
  · rw [List.length_eq_zero_iff] at hnil
    subst hnil
    exact hs
  · exact hP.store s addr bytes hs hin

/-- The induction step of every invariant: what keeps it through each thing that a step can do keeps it. -/
theorem StepInvariant.of_step (hP : StepInvariant P) (s t : State) (hs : P s) (h : step s = .next t) : P t := by
  cases hinp : s.inp with
  | nil =>
    cases (runNext_idle hinp).symm.trans h
    exact hP.ports s s.inp hs
  | cons a rest =>
    have hs' := hP.ports s rest hs
    have h' := (runNext_act hinp).symm.trans h
    cases a with
    | command f => exact hP.of_runFrame hs' h'
    | store addr bytes => exact hP.of_hostStore hs' h'

end

end Sys2Proof.Machine
end

section
/-! PROOFS about the invariants of the state (10_state.md R23 to R34; 60_exceptions.md R341, R343): each speaks of a few
registers, so what writes none of them keeps it (its lemma `congr`), and the effects that write one are gone through. -/

namespace Sys2Proof.Machine

open Sys2Proof Sys2Proof.Claims

section
variable {i : Instr} {s t : State}

/-! The memories (R30, R34) -/

theorem State.MemoriesLegal.congr (h : s.MemoriesLegal) (hbuf : t.buf = s.buf := by rfl)
    (hrx : t.rx.buf = s.rx.buf := by rfl) (hcfg : t.cfg = s.cfg := by rfl) : t.MemoriesLegal := by
  obtain ⟨hbufWf, hbufBelow, hrxWf, hrxBelow⟩ := h
  constructor <;> simpa only [hbuf, hrx, hcfg]

theorem State.MemoriesLegal.store (h : s.MemoriesLegal) {addr : Nat} {bytes : List Byte}
    (hin : addr + bytes.length ≤ s.cfg.bufSize) : { s with buf := s.buf.writeBytes addr bytes }.MemoriesLegal :=
  ⟨Memory.wf_writeBytes _ _ h.buf_wf, Memory.below_writeBytes _ _ hin h.buf_below, h.rxBuf_wf, h.rxBuf_below⟩

theorem State.MemoriesLegal.append (h : s.MemoriesLegal) {base : Nat} {p : List Byte} {len : Nat} {seq : Seq}
    {active : Bool} (hin : base + p.length ≤ s.cfg.fragSize) :
    { s with rx := ⟨s.rx.buf.writeBytes base p, len, seq, active⟩ }.MemoriesLegal :=
  ⟨h.buf_wf, h.buf_below, Memory.wf_writeBytes _ _ h.rxBuf_wf, Memory.below_writeBytes _ _ hin h.rxBuf_below⟩

theorem Effect.memoriesLegal (he : Effect s i t) (h : s.MemoriesLegal) : t.MemoriesLegal := by
  cases he with
  | store _ _ hin => exact (h.store hin).congr
  | receiveMore _ _ _ _ hin => exact (h.append hin).congr
  | receiveLast _ _ _ _ hin => exact (h.append hin).congr
  | _ => exact h.congr

theorem memoriesLegal_invariant : StepInvariant State.MemoriesLegal where
  ports _ _ h := h.congr
  store _ _ _ h hin := h.store hin
  refused _ h := h.congr
  raised _ _ _ h := h.congr
  effect _ _ _ h he := he.memoriesLegal h

/-! The fault registers and the response (R23, R24; 60_exceptions.md R341) -/

theorem State.FaultsLegal.congr (h : s.FaultsLegal) (hrsp : ∀ r, t.rsp = some r → r.Legal)
    (hfsr : t.fsr = s.fsr := by rfl) (hhalt : t.halt = s.halt := by rfl) : t.FaultsLegal := by
  obtain ⟨hcode, hempty, hlatched, -⟩ := h
  refine ⟨?_, ?_, ?_, hrsp⟩ <;> simpa only [hfsr, hhalt]

/-- A response that carries no result is legal with any status. -/
theorem Response.legal_of_silent {st : Byte} (h : st.toNat ≤ 8) : Response.Legal ⟨st, 0, []⟩ :=
  ⟨h, fun _ => ⟨rfl, rfl⟩, Nat.zero_le 1⟩

theorem State.FaultsLegal.raise (h : s.FaultsLegal) (opc : Byte) (r : Raise) : (s.raise opc r).FaultsLegal where
  fcode_le := by
    by_cases hfree : s.fsr.fcode = 0x00
    · rw [State.raise_fsr, FaultStatus.latch_free hfree]
      exact r.err.code_le
    · rw [State.raise_fsr, FaultStatus.latch_taken hfree]
      exact h.fcode_le
  empty_latch hempty := absurd hempty (s.fsr.latch_fcode opc r)
  halted_latched _ := s.fsr.latch_fcode opc r
  response q hq := by
    cases hq
    exact Response.legal_of_silent (r.err.code_le.trans (by decide))

theorem Effect.response_legal (he : Effect s i t) (r : Response) (hr : t.rsp = some r) : r.Legal := by
  obtain ⟨v, ev, hrsp, hone, -⟩ := he.rsp_eq
  cases hrsp.symm.trans hr
  exact ⟨Nat.zero_le 8, fun h => absurd rfl h, hone⟩

theorem Effect.faultsLegal (he : Effect s i t) (h : s.FaultsLegal) : t.FaultsLegal := by
  have hrsp := he.response_legal
  cases he with
  | reset => exact ⟨Nat.zero_le 7, fun _ => ⟨rfl, rfl⟩, nofun, hrsp⟩
  | _ => exact h.congr hrsp

theorem faultsLegal_invariant : StepInvariant State.FaultsLegal where
  ports _ _ h := h.congr fun _ hr => by cases hr
  store _ _ _ h _ := h.congr h.response
  refused _ h := h.congr fun r hr => by cases hr; exact Response.legal_of_silent (by decide)
  raised _ opc r h := h.raise opc r
  effect _ _ _ h he := he.faultsLegal h

/-! The transmitter (R28, R29) -/

theorem State.TransmitterLegal.congr (h : s.TransmitterLegal) (htx : t.tx = s.tx := by rfl)
    (htls : t.tls = s.tls := by rfl) (hcfg : t.cfg = s.cfg := by rfl) : t.TransmitterLegal := by
  obtain ⟨hlen, hsent, hsending⟩ := h
  constructor <;> simpa only [htx, htls, hcfg]

/-- Outside Sending the transmitter keeps what it held. -/
theorem State.TransmitterLegal.not_sending (h : s.TransmitterLegal) (htls : t.tls ≠ .sending)
    (htx : t.tx = s.tx := by rfl) (hcfg : t.cfg = s.cfg := by rfl) : t.TransmitterLegal := by
  obtain ⟨hlen, hsent, -⟩ := h
  refine ⟨?_, ?_, fun ht => absurd ht htls⟩ <;> simpa only [htx, hcfg]

theorem Effect.transmitterLegal (he : Effect s i t) (h : s.TransmitterLegal) : t.TransmitterLegal := by
  cases he with
  | layerUp => exact h.not_sending nofun
  | layerDown => exact h.not_sending nofun
  | sendFailure => exact h.not_sending nofun
  | sendStart tpdu hpos hfrag hin => exact ⟨hfrag, Nat.zero_le _, fun _ => ⟨hpos, hpos, hin⟩⟩
  | sendNext tpdu htls hmore =>
    obtain ⟨hpos, -, hin⟩ := h.sending htls
    exact ⟨h.len_le, hmore.le, fun _ => ⟨hpos, hmore, hin⟩⟩
  | @sendDone n htls hlast hsize =>
    have hle : s.tx.sent + n ≤ s.tx.len := by have := h.sent_le; omega
    exact ⟨h.len_le, hle, nofun⟩
  | reset => exact ⟨Nat.zero_le _, le_rfl, nofun⟩
  | _ => exact h.congr

theorem transmitterLegal_invariant : StepInvariant State.TransmitterLegal where
  ports _ _ h := h.congr
  store _ _ _ h _ := h.congr
  refused _ h := h.congr
  raised _ _ _ h := h.congr
  effect _ _ _ h he := he.transmitterLegal h

/-! The receiver (R30) -/

theorem State.ReceiverLegal.congr (h : s.ReceiverLegal) (hrx : t.rx = s.rx := by rfl)
    (hcfg : t.cfg = s.cfg := by rfl) : t.ReceiverLegal := by
  obtain ⟨hidle, hbusy⟩ := h
  constructor <;> simpa only [hrx, hcfg]

/-- A receiver that is idle holds no bytes. -/
theorem State.ReceiverLegal.of_idle (hactive : t.rx.active = false := by rfl) (hlen : t.rx.len = 0 := by rfl) :
    t.ReceiverLegal := ⟨fun _ => hlen, fun hbusy => by rw [hactive] at hbusy; cases hbusy⟩

theorem Effect.receiverLegal (he : Effect s i t) (h : s.ReceiverLegal) : t.ReceiverLegal := by
  cases he with
  | layerDown => exact .of_idle
  | receiveStop => exact .of_idle
  | receiveLast => exact .of_idle
  | reset => exact .of_idle
  | receiveMore _ _ _ hpos hin => exact ⟨nofun, fun _ => ⟨hpos.trans (Nat.le_add_left ..), hin⟩⟩
  | _ => exact h.congr

theorem receiverLegal_invariant : StepInvariant State.ReceiverLegal where
  ports _ _ h := h.congr
  store _ _ _ h _ := h.congr
  refused _ h := h.congr
  raised _ _ _ h := h.congr
  effect _ _ _ h he := he.receiverLegal h

/-! The object registers (R31, R32; 43_object_iterator.md R281 to R284) -/

theorem le_lt_word {f : List Byte} (h : f.length ≤ 4) : le f < 2 ^ 32 :=
  calc le f < 256 ^ f.length := le_lt f
    _ ≤ 256 ^ 4 := Nat.pow_le_pow_right (by decide) h

/-- The range and the count that a row's field gives are those that its header type allows (30_encoding.md R106). -/
theorem QualRow.countLegal_header {row : QualRow} {f : List Byte} {start : Word} {count : Nat} (hrow : row.Shape)
    (hf : f.length = row.hdrlen - 3) (h : row.range f = .ok (start, count)) (m : Memory) (otype : ObjType)
    (osize : Half) (a : Nat) : (row.header m otype osize a start count).countLegal := by
  obtain ⟨-, -, hshape⟩ := hrow
  unfold HeaderInfo.countLegal
  rcases row.range_cases f with ⟨-, -, e⟩ | ⟨ht, hle, e⟩ | ⟨ht, e⟩ | ⟨ht, e⟩ <;> rw [e] at h <;> cases h
  · have hrw : row.rw ≤ 4 := by
      rcases hshape with ⟨-, -, -, hrw, -⟩ | ⟨h, -⟩ | ⟨h, -⟩ | ⟨h, -⟩
      · exact hrw
      all_goals rw [ht] at h; cases h
    have hstart := le_lt_word (f := f.take row.rw) (by rw [List.length_take]; omega)
    have hstop := le_lt_word (f := (f.drop row.rw).take row.rw) (by rw [List.length_take]; omega)
    simp only [QualRow.header, ht, BitVec.toNat_ofNat]
    omega
  · simp [QualRow.header, ht]
  · have hcount := le_lt_word (f := f) (by
      rcases hshape with ⟨h, -⟩ | ⟨h, -⟩ | ⟨-, hlen, -, hrw⟩ | ⟨-, hlen, -, hrw, -⟩
      · simp [h] at ht
      · simp [h] at ht
      all_goals omega)
    rcases ht with ht | ht <;> simpa [QualRow.header, ht] using hcount

theorem parseHeader_parsed {otype : ObjType} {osize : Half} {addr : Word} {h : HeaderInfo}
    (hp : parseHeader otype osize addr s = .ok h) : h.parsed := by
  rcases parseHeader_cases otype osize addr s with ⟨-, e⟩ | ⟨-, -, e⟩ | ⟨row, -, -, -, e⟩ | ⟨row, r, -, -, -, e⟩ |
    ⟨row, start, count, hrow, -, hrange, e⟩ <;> rw [e] at hp <;> cases hp
  exact ⟨row.countLegal_header (qualRow_shape hrow) (Memory.length_readBytes ..) hrange .., row, hrow, rfl, rfl, rfl⟩

/-- An iterator over a legal header, placed by the rules of R282, is legal where its addresses do not wrap. -/
theorem Iter.legal_of_placed {h : HeaderInfo} {d : Bool} {p n : Nat} {x : Word} (hh : h.legal) (hn : n ≤ h.count)
    (hp : p ≤ 2 ^ 32 + n * 65539) (hnoData : d = false → p = 0 ∧ h.pfx = .none)
    (hbitfield : h.otype = .bitfield → h.pfx = .none) (hx : n < h.count → calcIndex s h p n = .ok x) :
    Iter.Legal ⟨h, n, d, BitVec.ofNat 64 p, BitVec.ofNat 64 (p + h.pfx.bytes), x, h.start⟩ := by
  have hcount := hh.count_le
  have hpfx := h.pfx.bytes_le
  refine ⟨hh, hn, rfl, ?pos, ?bound, fun hd => ?noData, hbitfield, fun ht hlt => ?ranged, fun ht hlt => ?count⟩
  case pos => simp only [BitVec.toNat_ofNat]; omega
  case bound => simp only [BitVec.toNat_ofNat]; omega
  case noData =>
    obtain ⟨rfl, hnone⟩ := hnoData hd
    exact ⟨rfl, hnone⟩
  all_goals
    dsimp only at ht hlt
    have hlegal := hh.countLegal (Nat.zero_lt_of_lt hlt)
    simp only [HeaderInfo.countLegal, ht] at hlegal
    have hindex := hx hlt
    simp only [calcIndex, ht, Except.ok.injEq] at hindex
    simp only [← hindex, BitVec.toNat_ofNat]
    omega

theorem startIter_legal {h : HeaderInfo} {d : Bool} {a : Word} {j : Iter} (hh : h.legal)
    (hok : initRefused h d = false) (hj : startIter s h d a = .ok j) : j.Legal := by
  have hp : (if d then a.toNat else 0) ≤ 2 ^ 32 + 0 * 65539 := by split <;> omega
  have hnoData : d = false → (if d then a.toNat else 0) = 0 ∧ h.pfx = .none := by
    rintro rfl
    exact ⟨rfl, (initRefused_eq_false.1 hok).resolve_right nofun⟩
  have hbitfield : h.otype = .bitfield → h.pfx = .none := fun ht =>
    (initRefused_eq_false.1 hok).resolve_right fun hk => by rw [ht] at hk; cases hk.2
  rcases startIter_cases s h d a with ⟨hc, e⟩ | ⟨hc, e⟩ <;> rw [e] at hj
  · obtain ⟨x, hx, rfl⟩ := placeAt_eq_ok.1 hj
    exact Iter.legal_of_placed hh (Nat.zero_le _) hp hnoData hbitfield fun _ => hx
  · cases hj
    exact Iter.legal_of_placed (s := s) hh (Nat.zero_le _) hp hnoData hbitfield fun hlt => by omega

theorem Iter.Legal.nextPfxPos_le {j : Iter} (hl : j.Legal) : j.nextPfxPos ≤ 2 ^ 32 + (j.n + 1) * 65539 := by
  have hpos := hl.pfxPos_le
  have hpfx := j.h.pfx.bytes_le
  have hsize := j.h.osize.isLt
  unfold Iter.nextPfxPos
  split <;> linarith

theorem Iter.Legal.advance {i j : Iter} (hl : i.Legal) (h : advance s i = .ok j) : j.Legal := by
  rcases advance_cases s i with ⟨-, e⟩ | ⟨hn, e⟩ | ⟨hn, e⟩ <;> rw [e] at h
  · cases h
  · obtain ⟨x, hx, rfl⟩ := placeAt_eq_ok.1 h
    refine Iter.legal_of_placed hl.header hn.le hl.nextPfxPos_le (fun hd => ?_) hl.bitfield fun _ => hx
    obtain ⟨hpos, hnone⟩ := hl.noData hd
    exact ⟨by simp [Iter.nextPfxPos, hd, hpos], hnone⟩
  · cases h
    obtain ⟨hheader, -, hstart, hpos, hle, hnoData, hbitfield, -, -⟩ := hl
    have hend : ¬i.n + 1 < i.h.count := by omega
    exact ⟨hheader, hn.le, hstart, hpos, hle.trans (by dsimp only; omega), hnoData, hbitfield, fun _ hlt => absurd hlt hend,
      fun _ hlt => absurd hlt hend⟩

theorem State.ObjectsLegal.congr (h : s.ObjectsLegal) (hhi : t.hi = s.hi := by rfl) (hit : t.it = s.it := by rfl)
    (hits : t.its = s.its := by rfl) : t.ObjectsLegal := ⟨hhi ▸ h.hi, hit ▸ h.it, hits ▸ h.its⟩

theorem Iter.legal_zero : Iter.zero.Legal := by
  constructor <;> simp [Iter.zero, HeaderInfo.zero, HeaderInfo.legal]
  decide

theorem Effect.objectsLegal (he : Effect s i t) (h : s.ObjectsLegal) : t.ObjectsLegal := by
  cases he with
  | parse hp => exact ⟨.inr (parseHeader_parsed hp), h.it, h.its⟩
  | iterInit hok hi => exact ⟨h.hi, startIter_legal h.hi hok hi, h.its⟩
  | iterInc hi => exact ⟨h.hi, h.it.advance hi, h.its⟩
  | iterPostInc hi => exact ⟨h.hi, h.it.advance hi, h.it⟩
  | iterSwap => exact ⟨h.hi, h.its, h.it⟩
  | reset => exact ⟨.inl rfl, Iter.legal_zero, Iter.legal_zero⟩
  | _ => exact h.congr

theorem objectsLegal_invariant : StepInvariant State.ObjectsLegal where
  ports _ _ h := h.congr
  store _ _ _ h _ := h.congr
  refused _ h := h.congr
  raised _ _ _ h := h.congr
  effect _ _ _ h he := he.objectsLegal h

end

/-! The five invariants -/

/-- Settles O50: bytes are stored in range only, and a store in range keeps the canonical form and the bound. -/
theorem stepKeepsMemoriesLegal : Obligations.StepKeepsMemoriesLegal := memoriesLegal_invariant.of_step

/-- Settles O51: only a raise writes the latch, with the code of an error, and it latches before it halts. -/
theorem stepKeepsFaultsLegal : Obligations.StepKeepsFaultsLegal := faultsLegal_invariant.of_step

/-- Settles O52: a send starts with an APDU inside `BUF`, and Sending is kept only while some of it is left. -/
theorem stepKeepsTransmitterLegal : Obligations.StepKeepsTransmitterLegal := transmitterLegal_invariant.of_step

/-- Settles O53: a segment is kept only with a payload and where it fits; whatever else writes the receiver stops it. -/
theorem stepKeepsReceiverLegal : Obligations.StepKeepsReceiverLegal := receiverLegal_invariant.of_step

/-- Settles O54: a parse gives a parsed header (`parseHeader_parsed`), an accepted one starts a legal iterator
(`startIter_legal`), and an advance keeps it legal (`Iter.Legal.advance`). -/
theorem stepKeepsObjectsLegal : Obligations.StepKeepsObjectsLegal := objectsLegal_invariant.of_step

/-! The legal state after power-on (R36) -/

/-- Settles O55: every register has its reset value, which each of the invariants allows. -/
theorem powerOnStateIsLegal : Obligations.PowerOnStateIsLegal := by
  have hpowerOn : ∀ cfg buf rxBuf, cfg.legal = true → buf.wf = true → buf.below cfg.bufSize = true →
      rxBuf.wf = true → rxBuf.below cfg.fragSize = true → (State.powerOn cfg buf rxBuf).Legal :=
    fun cfg buf rxBuf hcfg hbufWf hbufBelow hrxWf hrxBelow =>
      { cfg := hcfg
        memories := ⟨hbufWf, hbufBelow, hrxWf, hrxBelow⟩
        faults := ⟨Nat.zero_le 7, fun _ => ⟨rfl, rfl⟩, nofun, nofun⟩
        transmitter := ⟨Nat.zero_le _, le_rfl, nofun⟩
        receiver := .of_idle
        objects := ⟨.inl rfl, Iter.legal_zero, Iter.legal_zero⟩ }
  exact ⟨hpowerOn, hpowerOn Config.standard [] [] (by decide) rfl rfl rfl rfl⟩

end Sys2Proof.Machine
end

section
/-! PROOFS about the spare bytes of `RX_BUF` (10_state.md R30; 70_reset_and_hazards.md R381): only `TL.RECV` looks at
`RX_BUF`, so every other command does the same whatever `RX_BUF` holds; and `TL.RECV` looks at the bytes below `RX_LEN`
and at those that it has just stored. -/

namespace Sys2Proof.Machine

open Sys2Proof Sys2Proof.Claims

/-! Commands that do not look at `RX_BUF` -/

/-- The state with another `RX_BUF`. -/
def State.withRxBuf (s : State) (m : Memory) : State := { s with rx := { s.rx with buf := m } }

/-- A pseudocode that does the same whatever `RX_BUF` holds, and leaves it alone. -/
def IgnoresRxBuf (body : State → Except Raise State) : Prop :=
  ∀ s m, body (s.withRxBuf m) = (body s).map fun t => t.withRxBuf m

section
variable (s : State) (m : Memory)

@[simp] theorem State.withRxBuf_cfg : (s.withRxBuf m).cfg = s.cfg := rfl
@[simp] theorem State.withRxBuf_halt : (s.withRxBuf m).halt = s.halt := rfl
@[simp] theorem State.withRxBuf_buf : (s.withRxBuf m).buf = s.buf := rfl
@[simp] theorem State.withRxBuf_lh : (s.withRxBuf m).lh = s.lh := rfl
@[simp] theorem State.withRxBuf_tls : (s.withRxBuf m).tls = s.tls := rfl
@[simp] theorem State.withRxBuf_tx : (s.withRxBuf m).tx = s.tx := rfl
@[simp] theorem State.withRxBuf_hi : (s.withRxBuf m).hi = s.hi := rfl
@[simp] theorem State.withRxBuf_it : (s.withRxBuf m).it = s.it := rfl

theorem State.memRead_withRxBuf (a n : Nat) : (s.withRxBuf m).memRead a n = s.memRead a n :=
  State.memRead_congr rfl rfl a n

theorem State.memWrite_withRxBuf (a : Nat) (bytes : List Byte) :
    (s.withRxBuf m).memWrite a bytes = (s.memWrite a bytes).map fun t => t.withRxBuf m := by
  cases h : s.memWrite a bytes with
  | ok t =>
    obtain ⟨hin, rfl⟩ := State.memWrite_eq_ok.1 h
    exact State.memWrite_eq_ok.2 ⟨hin, rfl⟩
  | error r => exact State.memWrite_eq_error.2 (State.memWrite_eq_error (s := s).1 h)

end

/-- What is looked up, `RX_BUF` aside, and then answered. -/
theorem map_withRxBuf {α : Type} {m : Memory} {x : Except Raise α} {next next' : α → State}
    (h : ∀ a, next' a = (next a).withRxBuf m) : x.map next' = (x.map next).map fun t => t.withRxBuf m := by
  cases x with
  | error r => rfl
  | ok a => exact congrArg _ (h a)

theorem IgnoresRxBuf.of_lookup {α : Type} {body : State → Except Raise State} {x : State → Except Raise α}
    {next : State → α → State} (hbody : ∀ s, body s = (x s).map (next s))
    (hx : ∀ s m, x (s.withRxBuf m) = x s := by intros; rfl)
    (hnext : ∀ s m a, next (s.withRxBuf m) a = (next s a).withRxBuf m := by intros; rfl) : IgnoresRxBuf body := by
  intro s m
  rw [hbody, hbody, hx]
  exact map_withRxBuf (hnext s m)

/-- A pseudocode that branches on something else than `RX_BUF`. -/
theorem IgnoresRxBuf.ite {p : State → Prop} [∀ s, Decidable (p s)] {f g : State → Except Raise State}
    (hp : ∀ s m, p (s.withRxBuf m) ↔ p s) (hf : IgnoresRxBuf f) (hg : IgnoresRxBuf g) :
    IgnoresRxBuf fun s => if p s then f s else g s := fun s m => by
  by_cases h : p s
  · simp only [if_pos h, if_pos ((hp s m).2 h), hf s m]
  · simp only [if_neg h, if_neg (mt (hp s m).1 h), hg s m]

theorem codecRead_ignoresRxBuf (w : Nat) (o : ByteOrder) (ext : Nat → DWord) (addr : Word) :
    IgnoresRxBuf (codecRead w o ext addr) := fun s m => by
  unfold codecRead
  rw [State.memRead_withRxBuf]
  cases s.memRead addr.toNat w <;> rfl

theorem codecWrite_ignoresRxBuf (w : Nat) (o : ByteOrder) (addr : Word) (v : Nat) :
    IgnoresRxBuf (codecWrite w o addr v) := fun s m => by
  unfold codecWrite
  rw [State.memWrite_withRxBuf]
  cases s.memWrite addr.toNat (o.bytes v w) <;> rfl

theorem linkRead_ignoresRxBuf (addr : Word) : IgnoresRxBuf (linkRead addr) := fun s m => by
  unfold linkRead
  rw [State.memRead_withRxBuf]
  cases s.memRead addr.toNat 10 <;> rfl

theorem linkWrite_ignoresRxBuf (addr : Word) : IgnoresRxBuf (linkWrite addr) := fun s m => by
  unfold linkWrite
  dsimp only
  rw [State.memWrite_withRxBuf, State.withRxBuf_lh]
  cases s.memWrite addr.toNat (s.lh.wire ++ leBytes (crc16 s.lh.wire).toNat 2) <;> rfl

theorem crcCalc_ignoresRxBuf (addr : Word) (len : DWord) : IgnoresRxBuf (crcCalc addr len) := fun s m => by
  unfold crcCalc
  rw [State.memRead_withRxBuf]
  cases s.memRead addr.toNat len.toNat <;> rfl

theorem layerUp_ignoresRxBuf : IgnoresRxBuf fun s => .ok (layerUp s) := fun s m => by
  unfold layerUp
  simp only [State.withRxBuf_tls]
  cases s.tls <;> rfl

theorem layerDown_ignoresRxBuf : IgnoresRxBuf fun s => .ok (layerDown s) := fun s m => by
  unfold layerDown
  simp only [State.withRxBuf_tls]
  cases s.tls <;> rfl

theorem sendFailure_ignoresRxBuf : IgnoresRxBuf fun s => .ok (sendFailure s) := fun s m => by
  unfold sendFailure
  simp only [State.withRxBuf_tls]
  cases s.tls <;> rfl

theorem acceptSend_ignoresRxBuf (addr : Word) (len : Nat) : IgnoresRxBuf (acceptSend addr len) := fun s m => by
  by_cases h : addr.toNat + len ≤ s.cfg.bufSize
  · rw [acceptSend_in h, acceptSend_in (s := s.withRxBuf m) h]
    exact map_withRxBuf fun _ => rfl
  · rw [acceptSend_eq, acceptSend_eq, if_neg h, if_neg (c := _ ≤ (s.withRxBuf m).cfg.bufSize) h]
    rfl

theorem send_ignoresRxBuf (addr : Word) (len : DWord) : IgnoresRxBuf (send addr len) := by
  refine .ite (fun _ _ => Iff.rfl) (fun _ _ => rfl) fun s m => ?_
  simp only [State.withRxBuf_tls]
  cases s.tls
  · rfl
  · exact acceptSend_ignoresRxBuf addr len.toNat s m
  · rfl

theorem segmentDone_ignoresRxBuf : IgnoresRxBuf segmentDone := fun s m => by
  rcases Nat.lt_or_ge (s.tx.sent + segmentSize s s.tx.len s.tx.sent) s.tx.len with h | h
  · rw [segmentDone_more h, segmentDone_more (s := s.withRxBuf m) h]
    exact map_withRxBuf fun _ => rfl
  · rw [segmentDone_last h, segmentDone_last (s := s.withRxBuf m) h]
    rfl

theorem sendSuccess_ignoresRxBuf : IgnoresRxBuf sendSuccess := fun s m => by
  unfold sendSuccess
  simp only [State.withRxBuf_tls]
  cases s.tls
  · rfl
  · rfl
  · exact segmentDone_ignoresRxBuf s m

theorem headerParse_ignoresRxBuf (otype : ObjType) (osize : Half) (addr : Word) :
    IgnoresRxBuf (headerParse otype osize addr) :=
  .of_lookup (headerParse_eq_map otype osize addr)

theorem iterInit_ignoresRxBuf (hasdata : Bool) (addr : Word) : IgnoresRxBuf (iterInit hasdata addr) := fun s m => by
  cases h : initRefused s.hi hasdata with
  | true =>
    rw [iterInit, iterInit, if_pos h, if_pos (c := initRefused (s.withRxBuf m).hi hasdata = true) h]
    rfl
  | false =>
    rw [iterInit_accepted h, iterInit_accepted (s := s.withRxBuf m) h]
    exact map_withRxBuf fun _ => rfl

theorem iterDeref_ignoresRxBuf : IgnoresRxBuf iterDeref :=
  .ite (fun _ _ => Iff.rfl) (fun _ _ => rfl) (.ite (fun _ _ => Iff.rfl) (fun _ _ => rfl) fun _ _ => rfl)

theorem iterInfo_ignoresRxBuf : IgnoresRxBuf iterInfo :=
  .ite (fun _ _ => Iff.rfl) (fun _ _ => rfl) fun _ _ => rfl

theorem iterInc_ignoresRxBuf : IgnoresRxBuf iterInc := .of_lookup iterInc_eq_map

theorem iterPostInc_ignoresRxBuf : IgnoresRxBuf iterPostInc := .of_lookup iterPostInc_eq_map

theorem pseudocode_ignoresRxBuf {i : Instr} (hi : ∀ addr len, i ≠ .tlRecv addr len) :
    IgnoresRxBuf (pseudocode i) := by
  cases i with
  | tlRecv addr len => exact absurd rfl (hi addr len)
  | lhSet | lhGet | lhCtrl | lhChfcb | lhFunc | oiHasdata | oiCount | oiIsend | oiSwap | sysStat | sysReset | sysFinfo =>
    exact fun _ _ => rfl
  | lhRead => exact linkRead_ignoresRxBuf _
  | lhWrite => exact linkWrite_ignoresRxBuf _
  | crcCalc => exact crcCalc_ignoresRxBuf _ _
  | tlUp => exact layerUp_ignoresRxBuf
  | tlDown => exact layerDown_ignoresRxBuf
  | tlSend => exact send_ignoresRxBuf _ _
  | tlSucc => exact sendSuccess_ignoresRxBuf
  | tlFail => exact sendFailure_ignoresRxBuf
  | ohParse => exact headerParse_ignoresRxBuf _ _ _
  | oiInit => exact iterInit_ignoresRxBuf _ _
  | oiDeref => exact iterDeref_ignoresRxBuf
  | oiInfo => exact iterInfo_ignoresRxBuf
  | oiInc => exact iterInc_ignoresRxBuf
  | oiPinc => exact iterPostInc_ignoresRxBuf
  | wrU8 | wrI8 | wrU16LE | wrU16BE | wrI16LE | wrI16BE | wrU32LE | wrU32BE | wrI32LE | wrI32BE | wrU48LE | wrU48BE
  | wrU64LE | wrU64BE | wrI64LE | wrI64BE | wrF32LE | wrF32BE | wrF64LE | wrF64BE =>
    exact codecWrite_ignoresRxBuf _ _ _ _
  | _ => exact codecRead_ignoresRxBuf _ _ _ _

/-! Two states that agree but for the spare bytes -/

theorem agreeButSpareRx_withRxBuf {s : State} {m : Memory} (h : ∀ a < s.rx.len, s.rx.buf.read a = m.read a) :
    AgreeButSpareRx s (s.withRxBuf m) := ⟨rfl, h⟩

/-- Two runs of a pseudocode that end alike: in the same raise, or with the same response in states that agree but for
the spare bytes of `RX_BUF`. -/
inductive EndAlike : Except Raise State → Except Raise State → Prop
  | raises (r : Raise) : EndAlike (.error r) (.error r)
  | succeeds {t t' : State} (hrsp : t.rsp = t'.rsp) (h : AgreeButSpareRx t t') : EndAlike (.ok t) (.ok t')

/-- A command other than `TL.RECV` leaves `RX_BUF` alone and puts no byte of it to use. -/
theorem Effect.rx_spare {i : Instr} {s t : State} (h : Effect s i t) (hi : ∀ addr len, i ≠ .tlRecv addr len) :
    t.rx.buf = s.rx.buf ∧ t.rx.len ≤ s.rx.len := by
  cases h
  case receiveStop | receiveMore | receiveLast => exact absurd rfl (hi _ _)
  case layerDown | reset => exact ⟨rfl, Nat.zero_le _⟩
  all_goals exact ⟨rfl, le_rfl⟩

theorem receiverStop_endAlike (s : State) (m : Memory) :
    EndAlike (.ok { s with rx := s.rx.stop }.tlHandled)
      (.ok { s.withRxBuf m with rx := (s.withRxBuf m).rx.stop }.tlHandled) :=
  .succeeds rfl ⟨rfl, nofun⟩

section
variable {s : State} {m : Memory} (hm : ∀ a < s.rx.len, s.rx.buf.read a = m.read a)
include hm

theorem endAlike_of_ignoresRxBuf {i : Instr} (hi : ∀ addr len, i ≠ .tlRecv addr len) :
    EndAlike (pseudocode i s) (pseudocode i (s.withRxBuf m)) := by
  rw [pseudocode_ignoresRxBuf hi]
  cases h : pseudocode i s with
  | error r => exact .raises r
  | ok t =>
    obtain ⟨hbuf, hlen⟩ := (pseudocode_effect h).rx_spare hi
    exact .succeeds rfl (agreeButSpareRx_withRxBuf fun a ha => by rw [hbuf]; exact hm a (by omega))

/-- Storing the same bytes at or below `RX_LEN` leaves the two memories alike up to the last of them. -/
theorem read_append_eq {base : Nat} {p : List Byte} (hbase : base ≤ s.rx.len) {a : Nat} (ha : a < base + p.length) :
    (s.rx.buf.writeBytes base p).read a = (m.writeBytes base p).read a := by
  rw [Memory.read_writeBytes, Memory.read_writeBytes]
  split
  · rfl
  · exact hm a (by omega)

theorem appendSegment_endAlike (fin : Bool) (seq : Seq) {base : Nat} (p : List Byte) (hbase : base ≤ s.rx.len) :
    EndAlike (.ok (appendSegment s fin seq base p)) (.ok (appendSegment (s.withRxBuf m) fin seq base p)) := by
  have hread {a : Nat} := read_append_eq hm (p := p) hbase (a := a)
  rcases Nat.lt_or_ge s.cfg.fragSize (base + p.length) with hover | hfit
  · rw [appendSegment_overflow hover, appendSegment_overflow (s := s.withRxBuf m) hover]
    exact receiverStop_endAlike s m
  · cases fin with
    | false =>
      rw [appendSegment_more hfit, appendSegment_more (s := s.withRxBuf m) hfit]
      exact .succeeds rfl ⟨rfl, fun a ha => hread ha⟩
    | true =>
      have hapdu := Memory.readBytes_congr (s.rx.buf.writeBytes base p) (m.writeBytes base p) 0 (base + p.length)
        fun k hk => hread (by omega)
      rw [appendSegment_last hfit, appendSegment_last (s := s.withRxBuf m) hfit, hapdu]
      exact .succeeds rfl ⟨rfl, nofun⟩

theorem reassemble_endAlike (hdr : Byte) (p : List Byte) :
    EndAlike (.ok (reassemble hdr p s)) (.ok (reassemble hdr p (s.withRxBuf m))) := by
  cases h6 : hdr.getLsbD 6 with
  | true =>
    rw [reassemble_first h6, reassemble_first h6]
    exact appendSegment_endAlike hm _ _ p (Nat.zero_le _)
  | false =>
    cases ha : s.rx.active with
    | false =>
      rw [reassemble_idle h6 ha, reassemble_idle (s := s.withRxBuf m) h6 ha]
      exact .succeeds rfl ⟨rfl, hm⟩
    | true =>
      by_cases hq : hdr.extractLsb' 0 6 = nextSeq s.rx.seq
      · rw [reassemble_next h6 ha hq, reassemble_next (s := s.withRxBuf m) h6 ha hq]
        exact appendSegment_endAlike hm _ _ p le_rfl
      · rw [reassemble_gap h6 ha hq, reassemble_gap (s := s.withRxBuf m) h6 ha hq]
        exact receiverStop_endAlike s m

theorem receive_endAlike (addr : Word) (len : DWord) : EndAlike (receive addr len s) (receive addr len (s.withRxBuf m)) := by
  by_cases ht : s.tls = .closed
  · rw [receive_closed ht, receive_closed (s := s.withRxBuf m) ht]
    exact .succeeds rfl ⟨rfl, hm⟩
  · rcases Nat.lt_or_ge len.toNat 2 with hlen | hlen
    · rw [receive_short ht hlen, receive_short (s := s.withRxBuf m) ht hlen]
      exact .succeeds rfl ⟨rfl, hm⟩
    · rcases Nat.lt_or_ge s.cfg.bufSize (addr.toNat + len.toNat) with hout | hin
      · rw [receive_out ht hlen hout, receive_out (s := s.withRxBuf m) ht hlen hout]
        exact .raises _
      · rw [receive_in ht hlen hin, receive_in (s := s.withRxBuf m) ht hlen hin]
        exact reassemble_endAlike hm _ _

theorem pseudocode_endAlike (i : Instr) : EndAlike (pseudocode i s) (pseudocode i (s.withRxBuf m)) := by
  by_cases hi : ∃ addr len, i = .tlRecv addr len
  · obtain ⟨addr, len, rfl⟩ := hi
    exact receive_endAlike hm addr len
  · exact endAlike_of_ignoresRxBuf hm fun addr len h => hi ⟨addr, len, h⟩

theorem finish_endAlike {opc : Byte} {x x' : Except Raise State} (h : EndAlike x x') :
    (s.finish opc x).rsp = ((s.withRxBuf m).finish opc x').rsp ∧
      AgreeButSpareRx (s.finish opc x) ((s.withRxBuf m).finish opc x') := by
  cases h with
  | raises r => exact ⟨rfl, rfl, hm⟩
  | succeeds hrsp h => exact ⟨hrsp, h⟩

end

/-- A command that is not refused ends as its pseudocode does. -/
theorem exec_of_running {i : Instr} {s : State} (h : isSystem i ∨ s.halt = false) :
    exec i s = .next (s.finish i.opcode (pseudocode i s)) := by
  by_cases hi : isSystem i
  · rcases hi with rfl | rfl | rfl <;> rfl
  · rw [exec_command hi, runCommand_running (h.resolve_left hi)]

/-- Settles O56: a pseudocode ends alike in two such states (`pseudocode_endAlike`), and so does the frame around it. -/
theorem spareReceiverBytesAreUnobservable : Obligations.SpareReceiverBytesAreUnobservable := by
  rintro i s s' ⟨hrest, hused⟩
  obtain ⟨m, hm, rfl⟩ : ∃ m, (∀ a < s.rx.len, s.rx.buf.read a = m.read a) ∧ s' = s.withRxBuf m :=
    ⟨s'.rx.buf, hused, hrest.symm⟩
  by_cases h : isSystem i ∨ s.halt = false
  · obtain ⟨hrsp, hagree⟩ := finish_endAlike hm (opc := i.opcode) (pseudocode_endAlike hm i)
    exact ⟨_, _, exec_of_running h, exec_of_running h, hrsp, hagree⟩
  · obtain ⟨hi, hs⟩ := not_or.1 h
    have hs : s.halt = true := eq_true_of_ne_false hs
    exact ⟨_, _, exec_halted hs hi, exec_halted (s := s.withRxBuf m) hs hi, rfl, rfl, hm⟩

end Sys2Proof.Machine
end

section
/-! PROOFS about the outcomes of a command (60_exceptions.md R340 to R346): what it answers, what it may change
(10_state.md sections 2 to 6), and which errors each instruction can raise (R342). -/

namespace Sys2Proof.Machine

open Sys2Proof Sys2Proof.Claims

/-! How a command ends (R340) -/

theorem ErrCode.code_bounds (e : ErrCode) : 1 ≤ e.code.toNat ∧ e.code.toNat ≤ 7 := by cases e <;> decide

/-- Settles O8: the three ways of `exec_cases` are the three outcomes, and a raise is the statement's own
(`State.raise_eq_raised`). -/
theorem commandsEndInOneOfTheOutcomes : Obligations.CommandsEndInOneOfTheOutcomes := by
  intro i s
  obtain ⟨t, ht⟩ := exec_total i s
  refine ⟨t, ht, ?_⟩
  rcases exec_cases ht with ⟨hs, hi, rfl⟩ | ⟨hs, r, -, rfl⟩ | ⟨-, he⟩
  · exact .inr (.inr ⟨hs, hi, rfl⟩)
  · obtain ⟨hlo, hhi⟩ := r.err.code_bounds
    refine .inr (.inl ⟨hs, r.err.code, r.info, hlo, hhi, ?_⟩)
    rw [extractLsb'_encode_cw, State.raise_eq_raised]
  · exact .inl he.status

/-- Settles O11: an effect has at most one event (`Effect.rsp_eq`), a refusal and a raise have none. -/
theorem eventsComeFromTransportCommands : Obligations.EventsComeFromTransportCommands := by
  intro i s
  obtain ⟨t, ht⟩ := exec_total i s
  rcases exec_cases ht with ⟨-, -, rfl⟩ | ⟨-, r, -, rfl⟩ | ⟨-, he⟩
  · exact ⟨_, _, ht, rfl, Nat.zero_le 1, fun h => absurd rfl h, fun _ => ⟨rfl, rfl⟩⟩
  · exact ⟨_, _, ht, rfl, Nat.zero_le 1, fun h => absurd rfl h, fun _ => ⟨rfl, rfl⟩⟩
  · obtain ⟨v, ev, hrsp, hone, hfrom⟩ := he.rsp_eq
    exact ⟨t, _, ht, hrsp, hone, hfrom, fun h => absurd rfl h⟩

/-! The first error (R343, R345) -/

/-- A raise that changes the latch has found it empty. -/
theorem FaultStatus.latch_eq_of_ne {f : FaultStatus} {opc : Byte} {r : Raise} (h : f.latch opc r ≠ f) :
    f.latch opc r = ⟨r.err.code, opc, r.info⟩ := by
  by_cases hfree : f.fcode = 0x00
  · exact FaultStatus.latch_free hfree opc r
  · exact absurd (FaultStatus.latch_taken hfree opc r) h

/-- Only the fatal error changes `HALT`. -/
theorem haltAfter_ne {halt : Bool} {e : ErrCode} (h : haltAfter halt e ≠ halt) :
    e = .fatalBufRange ∧ haltAfter halt e = true := by
  cases e
  case fatalBufRange => exact ⟨rfl, rfl⟩
  all_goals exact absurd rfl h

/-- Settles O9: a refusal and an effect leave both registers alone (`Effect.faults_eq`), and a raise writes them by
`FaultStatus.latch` and `haltAfter`. -/
theorem firstErrorStaysLatched : Obligations.FirstErrorStaysLatched := by
  intro i s t h hi
  rcases exec_cases h with ⟨-, -, rfl⟩ | ⟨-, r, -, rfl⟩ | ⟨-, he⟩
  · exact ⟨fun _ => rfl, fun _ => ⟨rfl, rfl⟩, fun h => absurd rfl h, fun h => absurd rfl h⟩
  · refine ⟨fun htaken => FaultStatus.latch_taken htaken _ _, fun hok => ?ok, fun hfsr => ?latched, fun hhalt => ?halted⟩
    case ok => exact absurd (Option.some.inj hok) r.err.code_pos
    case latched =>
      rw [State.raise_fsr] at hfsr
      rw [State.raise_fsr, FaultStatus.latch_eq_of_ne hfsr, extractLsb'_encode_cw]
      exact ⟨rfl, rfl⟩
    case halted =>
      obtain ⟨hfatal, htrue⟩ := haltAfter_ne hhalt
      rw [State.raise_status, hfatal]
      exact ⟨rfl, htrue⟩
  · obtain ⟨hhalt, hfsr⟩ := he.faults_eq hi
    exact ⟨fun _ => hfsr, fun _ => ⟨hfsr, hhalt⟩, fun h => absurd hfsr h, fun h => absurd hhalt h⟩

/-! What a command may change (10_state.md sections 3 to 6) -/

/-- Settles O10: a refusal and a raise write none of these, and an effect writes those of its own instruction. -/
theorem registersChangeOnlyByTheirInstructions : Obligations.RegistersChangeOnlyByTheirInstructions := by
  intro i s t h hreset
  rcases exec_cases h with ⟨-, -, rfl⟩ | ⟨-, r, -, rfl⟩ | ⟨-, he⟩
  · simp
  · simp
  · cases he with
    | store v hi hin =>
      have hwriter : isWrite i ∨ ∃ addr, i = .lhWrite addr := hi
      simpa using fun _ => hwriter
    | sendNext tpdu htls => simpa using fun _ => htls
    | sendDone htls => simpa using fun _ => htls
    | reset => exact absurd rfl hreset
    | _ => simp

/-! The errors of each instruction (R342) -/

section
variable {s : State} {r : Raise}

theorem codecRead_error {w : Nat} {o : ByteOrder} {ext : Nat → DWord} {addr : Word}
    (h : codecRead w o ext addr s = .error r) : r.err = .fatalBufRange := by
  obtain ⟨-, -, rfl⟩ := codecRead_eq_error.1 h
  rfl

theorem codecWrite_error {w : Nat} {o : ByteOrder} {addr : Word} {v : Nat}
    (h : codecWrite w o addr v s = .error r) : r.err = .fatalBufRange := by
  obtain ⟨-, -, rfl⟩ := codecWrite_eq_error.1 h
  rfl

theorem linkRead_error {addr : Word} (h : linkRead addr s = .error r) : r.err = .fatalBufRange := by
  obtain ⟨-, rfl⟩ := linkRead_eq_error.1 h
  rfl

theorem linkWrite_error {addr : Word} (h : linkWrite addr s = .error r) : r.err = .fatalBufRange := by
  rw [linkWrite_eq] at h
  split at h <;> cases h
  rfl

theorem crcCalc_error {addr : Word} {len : DWord} (h : crcCalc addr len s = .error r) : r.err = .fatalBufRange := by
  rw [crcCalc_eq] at h
  split at h <;> cases h
  rfl

theorem send_error {addr : Word} {len : DWord} (h : send addr len s = .error r) :
    r.err = .argRange ∨ r.err = .fatalBufRange := by
  rcases send_cases addr len s with ⟨-, e⟩ | ⟨-, -, e⟩ | ⟨-, -, e⟩ <;> rw [e] at h
  · cases h
    exact .inl rfl
  · cases h
  · rw [acceptSend_eq] at h
    split at h <;> cases h
    exact .inr rfl

theorem receive_error {addr : Word} {len : DWord} (h : receive addr len s = .error r) : r.err = .fatalBufRange := by
  rcases receive_cases addr len s with ⟨-, e⟩ | ⟨-, -, e⟩ | ⟨-, -, -, e⟩ | ⟨-, -, -, e⟩ <;> rw [e] at h <;> cases h
  rfl

/-- The APDU of a legal transmitter lies inside `BUF`, so no segment of it can raise. -/
theorem State.TransmitterLegal.sendSuccess_ok (hl : s.TransmitterLegal) : sendSuccess s ≠ .error r := by
  intro h
  rcases sendSuccess_cases s with ⟨ht, e⟩ | ⟨-, e⟩ <;> rw [e] at h
  · obtain ⟨-, -, hin⟩ := hl.sending ht
    rcases Nat.lt_or_ge (s.tx.sent + segmentSize s s.tx.len s.tx.sent) s.tx.len with hmore | hlast
    · rw [segmentDone_more hmore, segment_in _ hmore.le hin] at h
      cases h
    · rw [segmentDone_last hlast] at h
      cases h
  · cases h

theorem headerParse_error {otype : ObjType} {osize : Half} {addr : Word} (h : headerParse otype osize addr s = .error r) :
    r.err = .badQualifier ∨ r.err = .badRange ∨ r.err = .fatalBufRange := by
  rw [headerParse_eq_map] at h
  rcases parseHeader_cases otype osize addr s with ⟨-, e⟩ | ⟨-, -, e⟩ | ⟨row, -, -, -, e⟩ | ⟨row, q, -, -, hq, e⟩ |
    ⟨row, start, count, -, -, -, e⟩ <;> rw [e] at h <;> cases h
  · exact .inr (.inr rfl)
  · exact .inl rfl
  · exact .inr (.inr rfl)
  · rcases row.range_cases (s.buf.readBytes (addr.toNat + 3) (row.hdrlen - 3)) with ⟨-, -, e⟩ | ⟨-, -, e⟩ | ⟨-, e⟩ |
      ⟨-, e⟩ <;> rw [e] at hq <;> cases hq
    exact .inr (.inl rfl)

theorem placeAt_error {h : HeaderInfo} {d : Bool} {p n : Nat} (he : placeAt s h d p n = .error r) :
    r.err = .fatalBufRange := by
  obtain ⟨-, -, -, rfl⟩ := placeAt_eq_error.1 he
  rfl

theorem iterInit_error {hasdata : Bool} {addr : Word} (h : iterInit hasdata addr s = .error r) :
    r.err = .argRange ∨ r.err = .fatalBufRange := by
  rcases iterInit_cases hasdata addr s with ⟨-, e⟩ | ⟨-, q, hq, e⟩ | ⟨-, j, -, e⟩ <;> rw [e] at h <;> cases h
  · exact .inl rfl
  · rcases startIter_cases s s.hi hasdata addr with ⟨-, e⟩ | ⟨-, e⟩ <;> rw [e] at hq
    · exact .inr (placeAt_error hq)
    · cases hq

theorem iterDeref_error (h : iterDeref s = .error r) : r.err = .iterNoData ∨ r.err = .iterOutOfBounds := by
  unfold iterDeref at h
  split at h
  · cases h
    exact .inl rfl
  · split at h <;> cases h
    exact .inr rfl

theorem iterInfo_error (h : iterInfo s = .error r) : r.err = .iterOutOfBounds := by
  unfold iterInfo at h
  split at h <;> cases h
  rfl

theorem advance_error {j : Iter} (h : advance s j = .error r) : r.err = .iterOutOfBounds ∨ r.err = .fatalBufRange := by
  rcases advance_cases s j with ⟨-, e⟩ | ⟨-, e⟩ | ⟨-, e⟩ <;> rw [e] at h
  · cases h
    exact .inl rfl
  · exact .inr (placeAt_error h)
  · cases h

theorem iterInc_error (h : iterInc s = .error r) : r.err = .iterOutOfBounds ∨ r.err = .fatalBufRange := by
  rcases iterInc_cases s with ⟨q, hq, e⟩ | ⟨j, -, e⟩ <;> rw [e] at h <;> cases h
  exact advance_error hq

theorem iterPostInc_error (h : iterPostInc s = .error r) : r.err = .iterOutOfBounds ∨ r.err = .fatalBufRange := by
  rcases iterPostInc_cases s with ⟨q, hq, e⟩ | ⟨j, -, e⟩ <;> rw [e] at h <;> cases h
  exact advance_error hq

theorem pseudocode_error {i : Instr} (hl : s.TransmitterLegal) (h : pseudocode i s = .error r) :
    r.err.code ∈ answerCodes i := by
  cases i with
  | lhSet | lhGet | lhCtrl | lhChfcb | lhFunc | tlUp | tlDown | tlFail | oiHasdata | oiCount | oiIsend | oiSwap
  | sysStat | sysReset | sysFinfo => cases h
  | tlSucc => exact absurd h hl.sendSuccess_ok
  | lhRead => rw [linkRead_error h]; exact .tail _ (.head _)
  | lhWrite => rw [linkWrite_error h]; exact .tail _ (.head _)
  | crcCalc => rw [crcCalc_error h]; exact .tail _ (.head _)
  | tlRecv => rw [receive_error h]; exact .tail _ (.head _)
  | oiInfo => rw [iterInfo_error h]; exact .tail _ (.head _)
  | tlSend => rcases send_error h with e | e <;> simp [e, answerCodes, ErrCode.code]
  | ohParse => rcases headerParse_error h with e | e | e <;> simp [e, answerCodes, ErrCode.code]
  | oiInit => rcases iterInit_error h with e | e <;> simp [e, answerCodes, ErrCode.code]
  | oiDeref => rcases iterDeref_error h with e | e <;> simp [e, answerCodes, ErrCode.code]
  | oiInc => rcases iterInc_error h with e | e <;> simp [e, answerCodes, ErrCode.code]
  | oiPinc => rcases iterPostInc_error h with e | e <;> simp [e, answerCodes, ErrCode.code]
  | wrU8 | wrI8 | wrU16LE | wrU16BE | wrI16LE | wrI16BE | wrU32LE | wrU32BE | wrI32LE | wrI32BE | wrU48LE | wrU48BE
  | wrU64LE | wrU64BE | wrI64LE | wrI64BE | wrF32LE | wrF32BE | wrF64LE | wrF64BE =>
    rw [codecWrite_error h]; exact .tail _ (.head _)
  | _ => rw [codecRead_error h]; exact .tail _ (.head _)

end

theorem ok_mem_answerCodes (i : Instr) : 0x00 ∈ answerCodes i := by cases i <;> exact .head _

/-- Settles O12: every instruction can answer OK, and its errors are those of its pseudocode (`pseudocode_error`). -/
theorem instructionsRaiseOnlyTheirErrors : Obligations.InstructionsRaiseOnlyTheirErrors := by
  intro i s hs hl
  obtain ⟨t, ht⟩ := exec_total i s
  refine ⟨t, ht, ?_⟩
  rcases exec_cases ht with ⟨hs', -⟩ | ⟨-, r, hr, rfl⟩ | ⟨-, he⟩
  · rw [hs] at hs'
    cases hs'
  · exact ⟨r.err.code, pseudocode_error hl hr, rfl⟩
  · exact ⟨0x00, ok_mem_answerCodes i, he.status⟩

/-! The codec sees `BUF` alone (40_byte_codec.md R140) -/

theorem pseudocode_of_isRead {i : Instr} (h : isRead i) :
    ∃ w o ext addr, ¬runsHalted i ∧ pseudocode i = codecRead w o ext addr := by
  cases i with
  | rdU8 | rdI8 | rdU16LE | rdU16BE | rdI16LE | rdI16BE | rdU32LE | rdU32BE | rdI32LE | rdI32BE | rdU48LE | rdU48BE
  | rdU64LE | rdU64BE | rdI64LE | rdI64BE | rdF32LE | rdF32BE | rdF64LE | rdF64BE =>
    exact ⟨_, _, _, _, by simp [runsHalted], rfl⟩
  | _ => simp [isRead, rowsReads, Instr.mnemonic] at h

theorem pseudocode_of_isWrite {i : Instr} (h : isWrite i) :
    ∃ w o addr v, ¬runsHalted i ∧ pseudocode i = codecWrite w o addr v := by
  cases i with
  | wrU8 | wrI8 | wrU16LE | wrU16BE | wrI16LE | wrI16BE | wrU32LE | wrU32BE | wrI32LE | wrI32BE | wrU48LE | wrU48BE
  | wrU64LE | wrU64BE | wrI64LE | wrI64BE | wrF32LE | wrF32BE | wrF64LE | wrF64BE =>
    exact ⟨_, _, _, _, by simp [runsHalted], rfl⟩
  | _ => simp [isWrite, rowsWrites, Instr.mnemonic] at h

/-- Two runs of a pseudocode that end alike for the codec: in the same raise, or with the same response and the same
`BUF` and `HALT`. -/
inductive CodecAlike : Except Raise State → Except Raise State → Prop
  | raises (r : Raise) : CodecAlike (.error r) (.error r)
  | succeeds {t t' : State} (hrsp : t.rsp = t'.rsp) (hbuf : t.buf = t'.buf) (hhalt : t.halt = t'.halt) :
      CodecAlike (.ok t) (.ok t')

section
variable {s s' : State} (hbuf : s.buf = s'.buf) (hhalt : s.halt = s'.halt)
include hbuf hhalt

theorem exec_codecAlike {i : Instr} (hi : ¬runsHalted i) (h : CodecAlike (pseudocode i s) (pseudocode i s')) :
    ∃ t t', exec i s = .next t ∧ exec i s' = .next t' ∧ t.rsp = t'.rsp ∧ t.buf = t'.buf ∧ t.halt = t'.halt := by
  cases hs : s.halt with
  | true => exact ⟨_, _, exec_halted hs hi, exec_halted (hhalt ▸ hs) hi, rfl, hbuf, hhalt⟩
  | false =>
    refine ⟨_, _, exec_of_running (.inr hs), exec_of_running (.inr (hhalt ▸ hs)), ?_⟩
    generalize pseudocode i s = x at h ⊢
    generalize pseudocode i s' = x' at h ⊢
    cases h with
    | raises r => exact ⟨rfl, hbuf, congrArg (haltAfter · r.err) hhalt⟩
    | succeeds hrsp hbuf hhalt => exact ⟨hrsp, hbuf, hhalt⟩

variable (hcfg : s.cfg = s'.cfg)
include hcfg

theorem codecRead_alike (w : Nat) (o : ByteOrder) (ext : Nat → DWord) (addr : Word) :
    CodecAlike (codecRead w o ext addr s) (codecRead w o ext addr s') := by
  unfold codecRead
  rw [State.memRead_congr hcfg hbuf]
  cases s'.memRead addr.toNat w with
  | error r => exact .raises r
  | ok b => exact .succeeds rfl hbuf hhalt

theorem codecWrite_alike (w : Nat) (o : ByteOrder) (addr : Word) (v : Nat) :
    CodecAlike (codecWrite w o addr v s) (codecWrite w o addr v s') := by
  by_cases h : w = 0 ∨ addr.toNat + w ≤ s.cfg.bufSize
  · rw [codecWrite_eq_ok.2 ⟨h, rfl⟩, codecWrite_eq_ok.2 ⟨hcfg ▸ h, rfl⟩, hbuf]
    exact .succeeds rfl rfl hhalt
  · obtain ⟨hw, hout⟩ := not_or.1 h
    have hout := Nat.lt_of_not_le hout
    rw [codecWrite_eq_error.2 ⟨hw, hout, rfl⟩, codecWrite_eq_error.2 ⟨hw, hcfg ▸ hout, rfl⟩]
    exact .raises _

end

/-- Settles O21: a read and a write end alike in two such states (`codecRead_alike`, `codecWrite_alike`), and so does
the frame around them. -/
theorem codecDependsOnlyOnBuf : Obligations.CodecDependsOnlyOnBuf := by
  rintro i s s' (hi | hi) hbuf hhalt hcfg
  · obtain ⟨w, o, ext, addr, hrun, e⟩ := pseudocode_of_isRead hi
    exact exec_codecAlike hbuf hhalt hrun (e ▸ codecRead_alike hbuf hhalt hcfg w o ext addr)
  · obtain ⟨w, o, addr, v, hrun, e⟩ := pseudocode_of_isWrite hi
    exact exec_codecAlike hbuf hhalt hrun (e ▸ codecWrite_alike hbuf hhalt hcfg w o addr v)

end Sys2Proof.Machine
end

section
/-! PROOFS about the state machine of the transport unit (42_transport.md R232 to R234, R246): which row of the state
table a command meets, how a send ends, and that the state change is done before its event is seen. -/

namespace Sys2Proof.Machine

open Sys2Proof Sys2Proof.Claims

/-! The state table (R231 to R233) -/

/-- What the table asks of an instruction that does not raise: the row's next state and the answer `handled = 1`, or no
change and the answer `handled = 0`. -/
def FollowsTable (s : State) (i : Instr) (t : State) : Prop :=
  match tableRow s i with
  | some q => t.tls = q ∧ t.result = some (tlAnswer q true)
  | none => t = { s with rsp := some ⟨0x00, tlAnswer s.tls false, []⟩ }

section
variable {i : Instr} {s t : State} {q : Tls}

theorem FollowsTable.ignored (h : tableRow s i = none) : FollowsTable s i s.tlIgnored := by
  rw [FollowsTable, h]
  exact s.tlIgnored_eq

theorem FollowsTable.handled (h : tableRow s i = some q) (ht : t.tls = q) : FollowsTable s i t.tlHandled := by
  rw [FollowsTable, h, ← ht, State.tlHandled_eq]
  exact ⟨rfl, rfl⟩

theorem FollowsTable.emits {e : Event} (h : tableRow s i = some q) (ht : t.tls = q) :
    FollowsTable s i (t.tlEmit e) := by
  rw [FollowsTable, h, ← ht, State.tlEmit_eq]
  exact ⟨rfl, rfl⟩

/-! One equation for each command: the rows it has -/

theorem tableRow_tlUp (s : State) : tableRow s .tlUp = if s.tls = .closed then some .ready else none := by
  unfold tableRow
  cases s.tls <;> rfl

theorem tableRow_tlDown (s : State) : tableRow s .tlDown = if s.tls = .closed then none else some .closed := by
  unfold tableRow
  cases s.tls <;> rfl

theorem tableRow_tlSend (s : State) (addr : Word) (len : DWord) :
    tableRow s (.tlSend addr len) = if s.tls = .ready then some .sending else none := by
  unfold tableRow
  cases s.tls <;> rfl

/-- A segment is handled in the state in which it comes. -/
theorem tableRow_tlRecv (s : State) (addr : Word) (len : DWord) :
    tableRow s (.tlRecv addr len) = if s.tls = .closed then none else some s.tls := by
  unfold tableRow
  cases s.tls <;> rfl

theorem tableRow_tlSucc (s : State) :
    tableRow s .tlSucc =
      if s.tls = .sending then
        if s.tx.sent + segmentSize s s.tx.len s.tx.sent < s.tx.len then some .sending else some .ready
      else none := by
  unfold tableRow
  cases s.tls <;> rfl

theorem tableRow_tlFail (s : State) : tableRow s .tlFail = if s.tls = .sending then some .ready else none := by
  unfold tableRow
  cases s.tls <;> rfl

/-! Each command's pseudocode -/

theorem layerUp_followsTable (s : State) : FollowsTable s .tlUp (layerUp s) := by
  rcases layerUp_cases s with ⟨ht, e⟩ | ⟨ht, e⟩ <;> rw [e]
  · exact .emits ((tableRow_tlUp s).trans (if_pos ht)) rfl
  · exact .ignored ((tableRow_tlUp s).trans (if_neg ht))

theorem layerDown_followsTable (s : State) : FollowsTable s .tlDown (layerDown s) := by
  rcases layerDown_cases s with ⟨ht, e⟩ | ⟨ht, e⟩ <;> rw [e]
  · exact .ignored ((tableRow_tlDown s).trans (if_pos ht))
  · exact .emits ((tableRow_tlDown s).trans (if_neg ht)) rfl

theorem sendFailure_followsTable (s : State) : FollowsTable s .tlFail (sendFailure s) := by
  rcases sendFailure_cases s with ⟨ht, e⟩ | ⟨ht, e⟩ <;> rw [e]
  · exact .emits ((tableRow_tlFail s).trans (if_pos ht)) rfl
  · exact .ignored ((tableRow_tlFail s).trans (if_neg ht))

theorem send_followsTable {addr : Word} {len : DWord} (h : send addr len s = .ok t) :
    FollowsTable s (.tlSend addr len) t := by
  rcases send_cases addr len s with ⟨-, e⟩ | ⟨-, ht, e⟩ | ⟨-, ht, e⟩ <;> rw [e] at h
  · cases h
  · cases h
    exact .ignored ((tableRow_tlSend s addr len).trans (if_neg ht))
  · rw [acceptSend_eq] at h
    split at h <;> cases h
    exact .emits ((tableRow_tlSend s addr len).trans (if_pos ht)) rfl

theorem sendSuccess_followsTable (h : sendSuccess s = .ok t) : FollowsTable s .tlSucc t := by
  rcases sendSuccess_cases s with ⟨ht, e⟩ | ⟨ht, e⟩ <;> rw [e] at h
  · have hrow := (tableRow_tlSucc s).trans (if_pos ht)
    rcases segmentDone_cases s with ⟨hmore, b, -, e'⟩ | ⟨-, r, -, e'⟩ | ⟨hlast, e'⟩ <;> rw [e'] at h <;> cases h
    · exact .emits (hrow.trans (if_pos hmore)) ht
    · exact .emits (hrow.trans (if_neg (Nat.not_lt.2 hlast))) rfl
  · cases h
    exact .ignored ((tableRow_tlSucc s).trans (if_neg ht))

theorem appendSegment_followsTable (h : tableRow s i = some s.tls) (fin : Bool) (seq : Seq) (base : Nat)
    (p : List Byte) : FollowsTable s i (appendSegment s fin seq base p) := by
  rcases appendSegment_cases s fin seq base p with ⟨-, e⟩ | ⟨-, -, e⟩ | ⟨-, -, e⟩ <;> rw [e]
  · exact .handled h rfl
  · exact .handled h rfl
  · exact .emits h rfl

theorem reassemble_followsTable (h : tableRow s i = some s.tls) (hdr : Byte) (p : List Byte) :
    FollowsTable s i (reassemble hdr p s) := by
  rcases reassemble_cases hdr p s with ⟨-, e⟩ | ⟨-, -, e⟩ | ⟨-, -, -, e⟩ | ⟨-, -, -, e⟩ <;> rw [e]
  · exact appendSegment_followsTable h ..
  · exact .handled h rfl
  · exact .handled h rfl
  · exact appendSegment_followsTable h ..

theorem receive_followsTable {addr : Word} {len : DWord} (h : receive addr len s = .ok t) :
    FollowsTable s (.tlRecv addr len) t := by
  rcases receive_cases addr len s with ⟨ht, e⟩ | ⟨ht, -, e⟩ | ⟨-, -, -, e⟩ | ⟨ht, -, -, e⟩ <;> rw [e] at h <;> cases h
  · exact .ignored ((tableRow_tlRecv s addr len).trans (if_pos ht))
  · exact .handled ((tableRow_tlRecv s addr len).trans (if_neg ht)) rfl
  · exact reassemble_followsTable ((tableRow_tlRecv s addr len).trans (if_neg ht)) ..

theorem pseudocode_followsTable (hi : isTransport i) (h : pseudocode i s = .ok t) : FollowsTable s i t := by
  cases i with
  | tlUp => cases h; exact layerUp_followsTable s
  | tlDown => cases h; exact layerDown_followsTable s
  | tlSend => exact send_followsTable h
  | tlRecv => exact receive_followsTable h
  | tlSucc => exact sendSuccess_followsTable h
  | tlFail => cases h; exact sendFailure_followsTable s
  | _ => simp [isTransport, rowsTransport, Instr.mnemonic] at hi

end

/-- Settles O30: a command that is not refused and does not raise is its pseudocode's end, which follows the table
(`pseudocode_followsTable`). -/
theorem transportFollowsTheStateTable : Obligations.TransportFollowsTheStateTable := by
  intro i s hi hs
  refine ⟨_, exec_of_running (.inr hs), fun hok => ?_⟩
  cases h : pseudocode i s with
  | ok t => exact pseudocode_followsTable hi h
  | error r =>
    rw [h] at hok
    exact absurd (Option.some.inj hok) r.err.code_pos

/-! How a send ends (R234, R246) -/

/-- A completion event comes from a running DCB that is Ready again. -/
theorem ready_of_completion {i : Instr} {s t : State} (hi : i = .tlSucc ∨ i = .tlFail) (h : exec i s = .next t)
    (hev : t.events = [.upperSendSuccess] ∨ t.events = [.upperSendFailure]) :
    t.halt = false ∧ t.tls = .ready ∧ t.cfg = s.cfg := by
  rcases exec_cases h with ⟨-, -, rfl⟩ | ⟨-, r, -, rfl⟩ | ⟨hrun, he⟩
  · rcases hev with hev | hev <;> cases hev
  · rcases hev with hev | hev <;> cases hev
  · have hs : s.halt = false := hrun.resolve_left (by rcases hi with rfl | rfl <;> simp [isSystem])
    rcases hi with rfl | rfl <;> cases he
    case inl.sendDone | inr.sendFailure => exact ⟨hs, rfl, rfl⟩
    all_goals rcases hev with hev | hev <;> cases hev

/-- Settles O33: the event is there with the new state (`ready_of_completion`), in which a legal send is accepted
(`exec_tlSend_accepted`). -/
theorem sendInReactionToCompletionIsAccepted : Obligations.SendInReactionToCompletionIsAccepted := by
  intro i s t addr len hi h hev hpos hfrag hbuf
  obtain ⟨hs, ht, hcfg⟩ := ready_of_completion hi h hev
  rw [← hcfg] at hfrag hbuf
  exact ⟨ht, _, exec_tlSend_accepted hs hpos hfrag ht hbuf, rfl, rfl, rfl⟩

/-- The effects that take the DCB out of Sending; every other effect leaves `TLS` alone or starts in Closed. -/
theorem Effect.of_leaving_sending {i : Instr} {s t : State} (he : Effect s i t) (hs : s.tls = .sending)
    (ht : t.tls ≠ .sending) :
    (i = .tlSucc ∧ s.tx.len ≤ t.tx.sent ∧ t.events = [.upperSendSuccess]) ∨
    (i = .tlFail ∧ t.events = [.upperSendFailure]) ∨ (i = .tlDown ∧ t.events = [.upperLayerDown]) ∨
    (i = .sysReset ∧ t.events = []) := by
  cases he
  case sendDone hlast _ => exact .inl ⟨rfl, hlast, rfl⟩
  case sendFailure => exact .inr (.inl ⟨rfl, rfl⟩)
  case layerDown => exact .inr (.inr (.inl ⟨rfl, rfl⟩))
  case reset => exact .inr (.inr (.inr ⟨rfl, rfl⟩))
  case layerUp hclosed =>
    rw [hs] at hclosed
    cases hclosed
  case sendStart => exact absurd rfl ht
  all_goals exact absurd hs ht

/-- `TL.DOWN` on a running DCB that is up. -/
theorem exec_tlDown_up {s : State} (hs : s.halt = false) (ht : s.tls ≠ .closed) :
    exec .tlDown s = .next ({ s with rx := s.rx.stop, tls := .closed }.tlEmit .upperLayerDown) :=
  exec_of_ok rfl hs (congrArg Except.ok ((layerDown_cases s).resolve_left fun h => ht h.1).2)

/-- A completion that reaches a DCB that does not send is a no-op. -/
theorem completions_ignored {s : State} (hs : s.halt = false) (ht : s.tls ≠ .sending) :
    Answers .tlSucc s (tlAnswer s.tls false) ∧ Answers .tlFail s (tlAnswer s.tls false) :=
  ⟨answers_of_tlIgnored rfl hs ((sendSuccess_cases s).resolve_left fun h => ht h.1).2,
    answers_of_tlIgnored rfl hs (congrArg Except.ok ((sendFailure_cases s).resolve_left fun h => ht h.1).2)⟩

/-- Settles O37: of all that a command can do, only these effects leave Sending (`Effect.of_leaving_sending`); after
`TL.DOWN` the DCB is Closed, where a completion is ignored. -/
theorem onlyCompletionOrDownEndsASend : Obligations.OnlyCompletionOrDownEndsASend := by
  refine ⟨fun i s t hs h ht => ?_, fun s hs ht => ?_⟩
  · rcases exec_cases h with ⟨-, -, rfl⟩ | ⟨-, r, -, rfl⟩ | ⟨-, he⟩
    · exact absurd hs ht
    · exact absurd hs ht
    · exact he.of_leaving_sending hs ht
  · have hup : s.tls ≠ .closed := by rw [ht]; decide
    exact ⟨_, exec_tlDown_up hs hup, rfl, completions_ignored hs nofun⟩

end Sys2Proof.Machine
end

section
/-! PROOFS about what the host sees around the instructions: a link header and the CRC over it (20_memory.md R71),
example words (30_encoding.md R109), the step of a command, of a store and of an idle DCB (00_scope.md R8), and the
registers after power-on and reset (10_state.md R36; 44_system.md R333). -/

namespace Sys2Proof.Machine

open Sys2Proof Sys2Proof.Claims

/-! The CRC of a written header -/

/-- The ten bytes of a written header are its wire form and, after it, the CRC. -/
theorem Memory.readBytes_written (m : Memory) (a : Nat) (h : LinkHeader) :
    (m.writeBytes a h.wireCrc).readBytes a 8 = h.wire ∧
    (m.writeBytes a h.wireCrc).readBytes (a + 8) 2 = leBytes (crc16 h.wire).toNat 2 := by
  have hten := m.readBytes_writeBytes a h.wireCrc
  rw [LinkHeader.length_wireCrc, show 10 = 8 + 2 from rfl, Memory.readBytes_add] at hten
  exact List.append_inj hten (by simp)

theorem littleEndian_written (m : Memory) (a : Nat) (h : LinkHeader) :
    littleEndian (m.writeBytes a h.wireCrc) (a + 8) 2 = (crc16 h.wire).toNat := by
  have hlt : (crc16 h.wire).toNat < 256 ^ 2 := (crc16 h.wire).isLt
  rw [← le_readBytes, (m.readBytes_written a h).2, le_leBytes, Nat.mod_eq_of_lt hlt]

/-- `CRC.CALC` over the first 8 bytes of a written header answers the CRC of its wire form, which is also what
`LH.WRITE` has answered. -/
theorem crcCalc_written {addr : Word} {s : State} (h : LinkHeader) (ha : addr.toNat + 10 ≤ s.cfg.bufSize) (v : DWord) :
    crcCalc addr 8 ({ s with buf := s.buf.writeBytes addr.toNat h.wireCrc }.respond v) =
      .ok ({ s with buf := s.buf.writeBytes addr.toNat h.wireCrc }.respond ((crc16 h.wire).setWidth 64)) := by
  have hin : addr.toNat + (8 : DWord).toNat ≤ s.cfg.bufSize := Nat.le_trans (Nat.add_le_add_left (by decide) _) ha
  have hwire : (s.buf.writeBytes addr.toNat h.wireCrc).readBytes addr.toNat (8 : DWord).toNat = h.wire :=
    (s.buf.readBytes_written addr.toNat h).1
  rw [crcCalc_eq, if_pos (.inr hin), State.respond_buf, hwire]
  rfl

/-- Settles O28: both commands answer the CRC of the wire form (`crcCalc_written`), which is the number that bytes 8
and 9 spell (`littleEndian_written`). -/
theorem crcCalcFindsTheWrittenCrc : Obligations.CrcCalcFindsTheWrittenCrc := by
  intro addr s hs ha
  refine ⟨_, _, exec_lhWrite_in hs ha, exec_of_ok rfl hs (crcCalc_written s.lh ha _), rfl, rfl, congrArg some ?_⟩
  exact setWidth_eq_ofNat (littleEndian_written s.buf addr.toNat s.lh).symm

/-! Words and steps -/

/-- Settles O3: the decoder evaluates each of the seven words. -/
theorem exampleWordsDecode : Obligations.ExampleWordsDecode :=
  ⟨rfl, rfl, rfl, rfl, rfl, rfl, rfl⟩

/-- Settles O4: the pending command is taken off the list (`step_of_command`) and is the instruction that its frame
decodes to (`runFrame_decoded`). -/
theorem stepRunsTheDecodedInstruction : Obligations.StepRunsTheDecodedInstruction := by
  intro i s f rest hinp hd
  exact (step_of_command hinp).trans (runFrame_decoded hd _)

theorem step_of_store {s : State} {addr : Nat} {bytes : List Byte} {rest : List HostAct}
    (h : s.inp = .store addr bytes :: rest) : step s = hostStore addr bytes { s with inp := rest, rsp := none } :=
  runNext_act h

/-- Settles O6: the pending store is taken off the list and is all or nothing (`hostStore_eq`). -/
theorem hostStoresBytesBetweenCommands : Obligations.HostStoresBytesBetweenCommands := by
  refine ⟨fun s addr bytes rest hinp hne => ⟨fun hin => ?inside, fun hout => ?outside⟩, fun s hinp => runNext_idle hinp⟩
  case inside =>
    refine ⟨s.buf.writeBytes addr bytes, ?_, fun k hk => Memory.read_writeBytes_in _ _ _ _ hk,
      fun b hb => Memory.read_writeBytes_out _ _ _ _ hb⟩
    rw [step_of_store hinp, hostStore_eq, if_pos (.inr hin)]
  case outside =>
    have hlen := List.length_pos_of_ne_nil hne
    rw [step_of_store hinp, hostStore_eq, if_neg]
    exact not_or.2 ⟨hlen.ne', Nat.not_le.2 hout⟩

/-! Power-on and reset -/

/-- Settles O48: `SYS.RESET` does not look at the state, and the registers it leaves are those of `State.powerOn`. -/
theorem resetRestoresThePowerOnRegisters : Obligations.ResetRestoresThePowerOnRegisters :=
  ⟨decode_of_noArg (fun _ _ => .sysReset) decode_sysReset (by decide), exec_sysReset⟩

/-- Every field of the status word is 0 after power-on (44_system.md R332). -/
theorem statusWord_powerOn (cfg : Config) (buf rxBuf : Memory) : (State.powerOn cfg buf rxBuf).statusWord = 0 := by
  rw [State.statusWord_eq]
  simp [State.powerOn, tlsNumber]

/-- Settles O49: the registers are those that `State.powerOn` writes, and their status word is 0
(`statusWord_powerOn`). -/
theorem powerOnRegisters : Obligations.PowerOnRegisters := by
  intro cfg buf rxBuf
  exact ⟨rfl, rfl, rfl, rfl, rfl, rfl, rfl, rfl, rfl, rfl, rfl, rfl,
    statusWord_powerOn cfg buf rxBuf ▸ sysStat_answers _⟩

end Sys2Proof.Machine
end
